-- ==== Sys2Proof/Word.lean ====
section
/-! DEFINITION. Bytes, host addresses, words and blocks: the data types of the core and their plainest structure.
Index maps with a meaning of their own (byte-sequence view against matrix view) are in Machine/Views.lean. -/

namespace Sys2Proof

/-- A byte: bit 7 is the most significant bit, nothing is signed (00_scope.md R11). -/
abbrev Byte := BitVec 8

/-- An address of the host port: 9 bits, 512 byte addresses (00_scope.md R8, 20_memory.md R60). -/
abbrev Addr := BitVec 9

/-- A word: one column of a matrix read from row 0 to row 3; `a0` is the most significant byte (00_scope.md R14). -/
structure Word where
  a0 : Byte
  a1 : Byte
  a2 : Byte
  a3 : Byte
  deriving DecidableEq, Repr

/-- A block, state or round key: four columns (00_scope.md R13, R15). Row `r` of column `c` is the matrix element `m[r][c]`. -/
structure Block where
  c0 : Word
  c1 : Word
  c2 : Word
  c3 : Word
  deriving DecidableEq, Repr

/-- The byte of row `r` of a word. -/
def Word.get (w : Word) (r : Fin 4) : Byte :=
  match r with
  | 0 => w.a0
  | 1 => w.a1
  | 2 => w.a2
  | 3 => w.a3

/-- The word whose row `r` is `f r`. -/
def Word.ofFn (f : Fin 4 → Byte) : Word := ⟨f 0, f 1, f 2, f 3⟩

/-- A byte function applied to each of the four bytes. -/
def Word.map (f : Byte → Byte) (w : Word) : Word := ⟨f w.a0, f w.a1, f w.a2, f w.a3⟩

/-- XOR of two words, byte by byte (00_scope.md R14). -/
def Word.xor (v w : Word) : Word := ⟨v.a0 ^^^ w.a0, v.a1 ^^^ w.a1, v.a2 ^^^ w.a2, v.a3 ^^^ w.a3⟩

/-- The word of four zero bytes. -/
def Word.zero : Word := ⟨0#8, 0#8, 0#8, 0#8⟩

/-- Column `c` of a block. -/
def Block.col (b : Block) (c : Fin 4) : Word :=
  match c with
  | 0 => b.c0
  | 1 => b.c1
  | 2 => b.c2
  | 3 => b.c3

/-- The block whose column `c` is `f c`. -/
def Block.ofCols (f : Fin 4 → Word) : Block := ⟨f 0, f 1, f 2, f 3⟩

/-- The block of sixteen zero bytes. -/
def Block.zero : Block := ⟨Word.zero, Word.zero, Word.zero, Word.zero⟩

end Sys2Proof
end

