-- ==== Sys2Proof/Config.lean ====
section
/-! DEFINITION. What an implementation of the core fixes (00_scope.md R6 to R8).
The spec leaves two parameters open. `LAT` (cycles from `req` to `ack`) is named by no rule and the model has no time
(70_reset_and_hazards.md R240; log entry 6). `TRACE` is an argument of Machine/Trace.lean's `tracePort`
(60_exceptions.md R216; log entry 7). The free values are all of the trace port; none reaches a register or a read. -/

namespace Sys2Proof.Config

/-- `Nb`, the state width in words, "fixed at 4" (00_scope.md R6). -/
def Nb : Nat := 4

/-- The capacity of the round-key store, "sized to the maximum possible Nr+1 = 15" (00_scope.md R7). -/
def roundKeySlots : Nat := 15

/-- The bytes of the key store, the largest key (00_scope.md R7). -/
def keyBytes : Nat := 32

/-- Host data width in bits (00_scope.md R8). -/
def hostDataWidth : Nat := 8

/-- Host address width in bits (00_scope.md R8). -/
def hostAddressWidth : Nat := 9

/-- Command width in bits (00_scope.md R8). -/
def commandWidth : Nat := 8

/-- FREE VALUE (log entry 7): the label the trace port presents with the snapshot in place `place` of checkpoint `index` of the
command byte `command` under the key length `klen`. "The set of labels and their encoding is not in the source"
(60_exceptions.md R216, 91_not_in_source.md N9), so it is any list of bytes. -/
opaque traceLabel (command klen : Byte) (index place : Nat) : List Byte

/-- FREE VALUE (log entry 7): the numbers of the round keys the trace port presents at a checkpoint. R216 has it present "the 16
bytes of `S` (or of a round key)" and does not say which round keys come when. -/
opaque traceRoundKeys (command klen : Byte) (index : Nat) : List Nat

/-- FREE VALUE (log entry 7): whether KEYEXPAND is traced as a step command. 43_cipher_decipher.md R189 counts it among them,
60_exceptions.md R218 does not, and "whether key-schedule steps are traced" is missing (91_not_in_source.md N9). -/
opaque traceKeyexpand : Bool

end Sys2Proof.Config
end

