-- ==== Sys2Proof/Syntax.lean ====
section
/-! DEFINITION. The twelve commands of the core, one constructor per row of spec/opcode_table.json (30_encoding.md R91). -/

namespace Sys2Proof

/-- A command (the spec's "instruction", 00_scope.md R19). `addroundkey n` and `gmul c` carry the number in the field `ARG`,
0 to 15 (30_encoding.md R92, R93); WellFormed.lean checks the range. -/
inductive Instr where
  | cipher
  | decipher
  | keyexpand
  | subbytes
  | invsubbytes
  | shiftrows
  | invshiftrows
  | mixcolumns
  | invmixcolumns
  | addroundkey (n : Nat)
  | xtime
  | gmul (c : Nat)
  deriving DecidableEq, Repr

end Sys2Proof
end

