-- ==== Sys2Proof/WellFormed.lean ====
section
/-! DEFINITION. Which terms of `Instr` stand for a command the encoding can hold. -/

namespace Sys2Proof

/-- `ARG` is four bits: an operand is a number in 0..15 (30_encoding.md R92, R93). -/
def argFits (n : Nat) : Bool := decide (n < 16)

/-- A command is well formed when its operand, if it has one, fits in `ARG`. Whether the operand is ACCEPTED (`n <= Nr`,
`c` in `GCONST`) is checked at execution, not here (30_encoding.md R92, R93). -/
def Instr.wellFormed : Instr → Bool
  | .cipher => true
  | .decipher => true
  | .keyexpand => true
  | .subbytes => true
  | .invsubbytes => true
  | .shiftrows => true
  | .invshiftrows => true
  | .mixcolumns => true
  | .invmixcolumns => true
  | .addroundkey n => argFits n
  | .xtime => true
  | .gmul c => argFits c

end Sys2Proof
end

