-- ==== Sys2Proof/Decode.lean ====
section
/-! DEFINITION. The decoder of a command byte, total on all 256 values, and the encoder (30_encoding.md R90 to R99). -/

namespace Sys2Proof

/-- What the decoder answers: a command, or the name "illegal" (30_encoding.md R94, R95, R99). -/
inductive Decoded where
  /-- The byte is the encoding of this command. -/
  | command (i : Instr)
  /-- The byte is one of the 214 illegal values. The write to `CMD` then reports E_ILLCMD. -/
  | illegal
  deriving DecidableEq, Repr

/-- The field `OP`, bits 7:4 of the command byte (30_encoding.md R90). -/
def opField (v : Byte) : Nat := v.toNat / 16

/-- The field `ARG`, bits 3:0 of the command byte (30_encoding.md R90). -/
def argField (v : Byte) : Nat := v.toNat % 16

/-- The decoder of 30_encoding.md R99: a pure function of the byte, never of the state (R96). -/
def decode (v : Byte) : Decoded :=
  match v.toNat with
  | 0x10 => .command .cipher
  | 0x11 => .command .decipher
  | 0x20 => .command .keyexpand
  | 0x30 => .command .subbytes
  | 0x31 => .command .invsubbytes
  | 0x40 => .command .shiftrows
  | 0x41 => .command .invshiftrows
  | 0x50 => .command .mixcolumns
  | 0x51 => .command .invmixcolumns
  | 0x70 => .command .xtime
  | _ =>
    if opField v = 0x6 then .command (.addroundkey (argField v))
    else if opField v = 0x8 then .command (.gmul (argField v))
    else .illegal

/-- The command of a decoder's answer, none for "illegal". -/
def Decoded.toOption : Decoded → Option Instr
  | .command i => some i
  | .illegal => none

/-- The byte of a command, from the opcode map (30_encoding.md R91): for ADDROUNDKEY and GMUL the operand is added
unscaled to the match value (R92, R93). -/
def encode : Instr → Byte
  | .cipher => 0x10#8
  | .decipher => 0x11#8
  | .keyexpand => 0x20#8
  | .subbytes => 0x30#8
  | .invsubbytes => 0x31#8
  | .shiftrows => 0x40#8
  | .invshiftrows => 0x41#8
  | .mixcolumns => 0x50#8
  | .invmixcolumns => 0x51#8
  | .addroundkey n => 0x60#8 + BitVec.ofNat 8 n
  | .xtime => 0x70#8
  | .gmul c => 0x80#8 + BitVec.ofNat 8 c

/-- The `match` value of the command's row in the opcode map (30_encoding.md R91). -/
def rowMatch : Instr → Byte
  | .cipher => 0x10#8
  | .decipher => 0x11#8
  | .keyexpand => 0x20#8
  | .subbytes => 0x30#8
  | .invsubbytes => 0x31#8
  | .shiftrows => 0x40#8
  | .invshiftrows => 0x41#8
  | .mixcolumns => 0x50#8
  | .invmixcolumns => 0x51#8
  | .addroundkey _ => 0x60#8
  | .xtime => 0x70#8
  | .gmul _ => 0x80#8

/-- The `mask` value of the command's row in the opcode map (30_encoding.md R91). -/
def rowMask : Instr → Byte
  | .cipher => 0xFF#8
  | .decipher => 0xFF#8
  | .keyexpand => 0xFF#8
  | .subbytes => 0xFF#8
  | .invsubbytes => 0xFF#8
  | .shiftrows => 0xFF#8
  | .invshiftrows => 0xFF#8
  | .mixcolumns => 0xFF#8
  | .invmixcolumns => 0xFF#8
  | .addroundkey _ => 0xF0#8
  | .xtime => 0xFF#8
  | .gmul _ => 0xF0#8

/-- The decoder on a word numbered as spec/opcode_table.json numbers it. Every command is exactly one byte
(30_encoding.md R90, R96), so a word of more than one byte, or one with a bit above bit 7 set, is no command. -/
def decodeTableWord (nbits w : Nat) : Option Instr :=
  if nbits ≤ 8 ∧ w < 256 then (decode (BitVec.ofNat 8 w)).toOption else none

end Sys2Proof
end

