-- ==== Sys2Proof/Machine/State.lean ====
section
/-! DEFINITION. The state of the core as plain data, the host's transactions, the reasons of a stop, and the state after reset
(10_state.md R20 to R39, 20_memory.md R60, 70_reset_and_hazards.md R230, R231). -/

namespace Sys2Proof.Machine

/-- What the host can do to the core (20_memory.md R60, 70_reset_and_hazards.md R230): a read of one byte, a write of one byte,
or a reset, the event the host may cause between any two transactions. -/
inductive HostEvent where
  /-- `MemRead(addr, 1)` (20_memory.md R61). -/
  | read (addr : Addr)
  /-- `MemWrite(addr, 1, v)` (20_memory.md R62). -/
  | write (addr : Addr) (v : Byte)
  /-- `rst` asserted for one clock (70_reset_and_hazards.md R230, 30_encoding.md R97 `RESET`). -/
  | reset
  deriving DecidableEq, Repr

/-- The state of the machine. The first eight fields are the whole state the spec names (10_state.md R38, R10); the last three
are the model's own. -/
structure State where
  /-- `S`, the state register: 16 bytes, the matrix `S[r][c]` canonical (10_state.md R20, R21). -/
  S : Block
  /-- `KEY`, the key register: 32 bytes in byte-sequence order (10_state.md R22). -/
  KEY : Vector Byte 32
  /-- `KLEN`, the key-length register; all 256 values can be stored (10_state.md R30). -/
  KLEN : Byte
  /-- `RK`, the round-key store: 15 round keys of 16 bytes (10_state.md R24). -/
  RK : Vector Block 15
  /-- `RKV`, the round-keys-valid flag (10_state.md R26). -/
  RKV : Bool
  /-- `GFA`, the operand register of the Galois-field unit (10_state.md R28). -/
  GFA : Byte
  /-- `GFR`, the result register of the Galois-field unit (10_state.md R29). -/
  GFR : Byte
  /-- `ERR`, the error register (10_state.md R32). -/
  ERR : Byte
  /-- MODEL'S OWN (log entry 2): a reset has been taken since power-up, so that transactions may be issued
  (70_reset_and_hazards.md R230). -/
  resetDone : Bool
  /-- MODEL'S OWN (log entry 1): what the host has yet to do, in the order it will do it (20_memory.md R78). -/
  host : List HostEvent
  /-- MODEL'S OWN (log entry 1): the bytes the host's reads have returned, the latest first. -/
  reads : List Byte
  deriving DecidableEq, Repr

/-- The machine has no fault: every command ends in `done` or in an error code in `ERR`, and "There is no third outcome: no
command hangs, none completes in part" (60_exceptions.md R200, R210). So this type has no constructor, no meaning raises a fault,
and that is no difference from the spec. -/
inductive Fault where
  deriving DecidableEq, Repr

/-- Why a step is refused. -/
inductive Refusal where
  /-- Raised by an arm of `exec` whose instruction has no meaning yet. Safe. No arm of this model raises it. -/
  | notModelled (mnemonic : String)
  /-- Raised by the host port when the host reads or writes before the first reset: "no transaction may be issued in it"
  (70_reset_and_hazards.md R230; treatment `refuse`, 93_implementation_defined.md U14). Safe: it stops. No command raises it, and it
  cannot happen in a run from `State.reset`. -/
  | transactionBeforeReset
  deriving DecidableEq, Repr

/-- The three outcomes of a step or of a meaning. -/
abbrev Result := Host.Outcome State Fault Refusal

/-- The error codes of 60_exceptions.md R203 other than success. -/
inductive ErrCode where
  /-- `KLEN` is not 16, 24 or 32 (60_exceptions.md R205). -/
  | eKeylen
  /-- The byte written to `CMD` decodes to "illegal" (60_exceptions.md R207). -/
  | eIllcmd
  /-- A GMUL constant outside `GCONST`, or a round-key index beyond the schedule (60_exceptions.md R208). -/
  | eArg
  /-- ADDROUNDKEY with no key schedule in `RK` (60_exceptions.md R209). -/
  | eNokey
  deriving DecidableEq, Repr

/-- The state right after reset: every register takes the reset value of 10_state.md R38 (70_reset_and_hazards.md R231). A reset has
been taken, the host has nothing pending, and no read has returned a byte (DESIGN CHOICE, log entries 1 and 2). -/
def State.reset : State where
  S := Block.zero
  KEY := Vector.replicate 32 0x00#8
  KLEN := 0x00#8
  RK := Vector.replicate 15 Block.zero
  RKV := false
  GFA := 0x00#8
  GFR := 0x00#8
  ERR := 0x00#8
  resetDone := true
  host := []
  reads := []

end Sys2Proof.Machine
end

