-- ==== Sys2Proof/Machine/Operands.lean ====
section
/-! DEFINITION. The operand forms of the commands and the checks on them: the key length (CIPHER, DECIPHER, KEYEXPAND), the
round-key index (ADDROUNDKEY) and the multiplier constant (GMUL). -/

namespace Sys2Proof.Machine

/-- The legal key lengths are 16, 24 and 32; the check is on the whole byte (10_state.md R30, 60_exceptions.md R205). -/
def klenLegal (klen : Byte) : Bool := klen == 16#8 || klen == 24#8 || klen == 32#8

/-- `Nk = KLEN div 4`, the key length in words (00_scope.md R6). -/
def nkOf (klen : Byte) : Nat := klen.toNat / 4

/-- `Nr = Nk + 6`, the number of rounds (00_scope.md R6, 10_state.md R30). -/
def nrOf (klen : Byte) : Nat := nkOf klen + 6

/-- The round key an ADDROUNDKEY operand names: none when `n > Nr` (41_round_transforms.md R143). The store has no entry 15, so 15
names none whatever `KLEN` holds: "`n = 15` always fails" (R143, 30_encoding.md R92; DEDUCED, log entry 4). -/
def selectRoundKey (s : State) (n : Nat) : Option Block :=
  if n ≤ nrOf s.KLEN then s.RK[n]? else none

/-- `GCONST`, the seven constants the Galois-field unit multiplies by (40_gf_arithmetic.md R112). -/
inductive GConst where
  | c1
  | c2
  | c3
  | c9
  | cb
  | cd
  | ce
  deriving DecidableEq, Repr

/-- The constant as a number. -/
def GConst.toNat : GConst → Nat
  | .c1 => 0x1
  | .c2 => 0x2
  | .c3 => 0x3
  | .c9 => 0x9
  | .cb => 0xb
  | .cd => 0xd
  | .ce => 0xe

/-- The constant a GMUL operand names: none outside `GCONST` (40_gf_arithmetic.md R115). -/
def selectConst (c : Nat) : Option GConst :=
  match c with
  | 0x1 => some .c1
  | 0x2 => some .c2
  | 0x3 => some .c3
  | 0x9 => some .c9
  | 0xb => some .cb
  | 0xd => some .cd
  | 0xe => some .ce
  | _ => none

end Sys2Proof.Machine
end

