-- ==== Sys2Proof/Machine/Flags.lean ====
section
/-! DEFINITION. The error codes and the three derived registers. The core has no condition codes: `RKV` and `ERR` are its only
flags (10_state.md R26). -/

namespace Sys2Proof.Machine

/-- The code of success (60_exceptions.md R203). -/
def okCode : Byte := 0x00#8

/-- The numeric error codes (60_exceptions.md R203). -/
def errCode : ErrCode → Byte
  | .eKeylen => 0x01#8
  | .eIllcmd => 0x02#8
  | .eArg => 0x03#8
  | .eNokey => 0x04#8

/-- A bit as the weight it has in a register. -/
def bitAt (b : Bool) (k : Nat) : Byte := if b then BitVec.ofNat 8 (2 ^ k) else 0#8

/-- `STATUS`: bit 0 `RKV`, bit 1 `KLV`, bit 2 `ERRF`, bits 7:3 zero (10_state.md R33). -/
def statusByte (s : State) : Byte :=
  bitAt s.RKV 0 ||| bitAt (klenLegal s.KLEN) 1 ||| bitAt (s.ERR != okCode) 2

/-- `PARAM`: bits 3:0 `Nk`, bits 7:4 `Nr`, both 0 when `KLEN` is not legal (10_state.md R34). -/
def paramByte (s : State) : Byte :=
  if klenLegal s.KLEN then BitVec.ofNat 8 (nrOf s.KLEN * 16 + nkOf s.KLEN) else 0x00#8

/-- `RKCNT`: `Nr + 1` when `RKV = 1`, else `0x00` (10_state.md R35). -/
def rkcntByte (s : State) : Byte :=
  if s.RKV then BitVec.ofNat 8 (nrOf s.KLEN + 1) else 0x00#8

end Sys2Proof.Machine
end

