-- ==== Sys2Proof/Machine/Ops.lean ====
section
/-! DEFINITION. The named operations over the state: the write of one field, and the two ways a command ends
(60_exceptions.md R200 to R202). There is no exception entry and no return beside them: an error is `raiseErr` and nothing more
(60_exceptions.md R210, R211). -/

namespace Sys2Proof.Machine

/-- `S <- x`, and nothing else. -/
def State.withS (s : State) (x : Block) : State := { s with S := x }

/-- `KEY <- x`, and nothing else. -/
def State.withKEY (s : State) (x : Vector Byte 32) : State := { s with KEY := x }

/-- `KLEN <- x`, and nothing else. -/
def State.withKLEN (s : State) (x : Byte) : State := { s with KLEN := x }

/-- `RK <- x`, and nothing else. -/
def State.withRK (s : State) (x : Vector Block 15) : State := { s with RK := x }

/-- `RKV <- x`, and nothing else. -/
def State.withRKV (s : State) (x : Bool) : State := { s with RKV := x }

/-- `GFA <- x`, and nothing else. -/
def State.withGFA (s : State) (x : Byte) : State := { s with GFA := x }

/-- `GFR <- x`, and nothing else. -/
def State.withGFR (s : State) (x : Byte) : State := { s with GFR := x }

/-- `ERR <- x`, and nothing else. -/
def State.withERR (s : State) (x : Byte) : State := { s with ERR := x }

/-- `resetDone <- x`, and nothing else. -/
def State.withResetDone (s : State) (x : Bool) : State := { s with resetDone := x }

/-- `host <- x`, and nothing else. -/
def State.withHost (s : State) (x : List HostEvent) : State := { s with host := x }

/-- `reads <- x`, and nothing else. -/
def State.withReads (s : State) (x : List Byte) : State := { s with reads := x }

/-- `done`: the command has done all its writes and `ERR <- 0x00` (60_exceptions.md R201). -/
def done (s : State) : State := s.withERR okCode

/-- `raise E_X`: `ERR <- code(E_X)` and no other register changes (60_exceptions.md R202). It is applied to the state BEFORE the
command, since all checks come before any write. -/
def raiseErr (e : ErrCode) (s : State) : State := s.withERR (errCode e)

/-- The common form of the six transforms that cannot fail: `S <- f(S)` then `done` (41_round_transforms.md R131 to R141). -/
def transformS (f : Block → Block) (s : State) : State := done (s.withS (f s.S))

/-- The write of a key byte by the host: `KEY[i] <- v` and `RKV <- 0` (20_memory.md R63, R71). -/
def writeKeyByte (i : Fin 32) (v : Byte) (s : State) : State := (s.withKEY (s.KEY.set i v)).withRKV false

/-- The write of `KLEN` by the host: `KLEN <- v` and `RKV <- 0`, whatever `v` is (20_memory.md R63, R71, 10_state.md R30). -/
def writeKlen (v : Byte) (s : State) : State := (s.withKLEN v).withRKV false

/-- The core takes its reset state (70_reset_and_hazards.md R230, R231). What the host has yet to do and what it has read are the
host's own and stay (DESIGN CHOICE, log entry 1). -/
def takeReset (s : State) : State := (State.reset.withHost s.host).withReads s.reads

end Sys2Proof.Machine
end

