-- ==== Sys2Proof/Machine/Galois.lean ====
section
/-! DEFINITION. The Galois-field arithmetic unit: `xtime`, `gmul`, and the commands XTIME and GMUL (40_gf_arithmetic.md). -/

namespace Sys2Proof.Machine

/-- Multiplication by {02} in GF(2^8): shift left by one bit, and fold in `0x1B` when bit 7 of the input was 1
(40_gf_arithmetic.md R110). -/
def xtime (b : Byte) : Byte := if b.getLsbD 7 then (b <<< 1) ^^^ 0x1B#8 else b <<< 1

/-- Multiplication of a byte by a constant of `GCONST`, the middle column of the table of 40_gf_arithmetic.md R112: `x1`, `x2`, `x3`
are `xtime` applied once, twice, three times. It is not defined for any other constant. -/
def gmul (a : Byte) (c : GConst) : Byte :=
  let x1 := xtime a
  let x2 := xtime x1
  let x3 := xtime x2
  match c with
  | .c1 => a
  | .c2 => x1
  | .c3 => x1 ^^^ a
  | .c9 => x3 ^^^ a
  | .cb => x3 ^^^ x1 ^^^ a
  | .cd => x3 ^^^ x2 ^^^ a
  | .ce => x3 ^^^ x2 ^^^ x1

/-- XTIME: `GFR <- xtime(GFA)`; it cannot fail (40_gf_arithmetic.md R114). -/
def execXtime (s : State) : Result := .next (done (s.withGFR (xtime s.GFA)))

/-- GMUL c: E_ARG when `c` is not in `GCONST`, else `GFR <- gmul(GFA, c)` (40_gf_arithmetic.md R115). -/
def execGmul (c : Nat) (s : State) : Result :=
  match selectConst c with
  | none => .next (raiseErr .eArg s)
  | some k => .next (done (s.withGFR (gmul s.GFA k)))

end Sys2Proof.Machine
end

