-- ==== Sys2Proof/Machine/Views.lean ====
section
/-! DEFINITION. The two views of the same bytes: byte sequence and matrix (00_scope.md R13 to R15, 10_state.md R21, R23). All byte order
of the model is decided here. -/

namespace Sys2Proof.Machine

/-- The row of byte `i` of a block: `i mod 4` (00_scope.md R13). -/
def rowOf (i : Fin 16) : Fin 4 := ⟨i.val % 4, Nat.mod_lt _ (by decide)⟩

/-- The column of byte `i` of a block: `i div 4` (00_scope.md R13). -/
def colOf (i : Fin 16) : Fin 4 := ⟨i.val / 4, Nat.div_lt_of_lt_mul i.isLt⟩

/-- The place of row `r`, column `c` in the byte sequence: `r + 4c` (00_scope.md R13). -/
def seqIndex (r c : Fin 4) : Fin 16 :=
  ⟨r.val + 4 * c.val, Nat.lt_of_lt_of_le (Nat.add_lt_add_right r.isLt _) (by have := c.isLt; omega)⟩

/-- The matrix view of a block: `m[r][c]`. -/
def blockAt (m : Block) (r c : Fin 4) : Byte := (m.col c).get r

/-- The block whose matrix view is `f`. -/
def blockOf (f : Fin 4 → Fin 4 → Byte) : Block := Block.ofCols fun c => Word.ofFn fun r => f r c

/-- The byte-sequence view of a block: `b[i] = m[i mod 4][i div 4]` (00_scope.md R13, 10_state.md R21). -/
def blockByte (m : Block) (i : Fin 16) : Byte := blockAt m (rowOf i) (colOf i)

/-- `m[r][c] <- v`. -/
def setAt (m : Block) (r c : Fin 4) (v : Byte) : Block :=
  blockOf fun r' c' => if r' = r ∧ c' = c then v else blockAt m r' c'

/-- The block of a byte sequence. -/
def blockOfBytes (b : Fin 16 → Byte) : Block := blockOf fun r c => b (seqIndex r c)

/-- The place of row `r`, column `c` of the key matrix in the key's byte sequence: `r + 4c` (10_state.md R23). -/
def keyIndex (r : Fin 4) (c : Fin 8) : Fin 32 := ⟨r.val + 4 * c.val, by have := r.isLt; have := c.isLt; omega⟩

/-- Word `c` of the key: `[k[4c], k[4c+1], k[4c+2], k[4c+3]]`, column `c` of the key matrix, row 0 first
(10_state.md R23, 42_key_schedule.md R163). -/
def keyColumn (key : Vector Byte 32) (c : Fin 8) : Word := Word.ofFn fun r => key[keyIndex r c]

end Sys2Proof.Machine
end

