-- ==== Sys2Proof/Machine/Transforms.lean ====
section
/-! DEFINITION. The seven round transforms as pure functions from matrix to matrix, and the commands that apply them to `S`
(41_round_transforms.md). Each function takes the old matrix whole and gives a fresh one, so none can read a byte it has
overwritten (R144). -/

namespace Sys2Proof.Machine

/-- `SubBytes`: every byte replaced through `SBOX` (41_round_transforms.md R130). -/
def subBytes (m : Block) : Block := blockOf fun r c => SBOX (blockAt m r c)

/-- `InvSubBytes`: every byte replaced through `INVSBOX` (41_round_transforms.md R132). -/
def invSubBytes (m : Block) : Block := blockOf fun r c => INVSBOX (blockAt m r c)

/-- `ShiftRows`: `m'[r][c] = m[r][(c + r) mod 4]`; the addition of `Fin 4` is modulo 4 (41_round_transforms.md R134). -/
def shiftRows (m : Block) : Block := blockOf fun r c => blockAt m r (c + r)

/-- `InvShiftRows`: `m'[r][c] = m[r][(c - r) mod 4]` (41_round_transforms.md R136). -/
def invShiftRows (m : Block) : Block := blockOf fun r c => blockAt m r (c - r)

/-- One column of `MixColumns` (41_round_transforms.md R138): the fixed matrix on the left, the column on the right. -/
def mixColumn (s : Word) : Word where
  a0 := gmul s.a0 .c2 ^^^ gmul s.a1 .c3 ^^^ s.a2 ^^^ s.a3
  a1 := s.a0 ^^^ gmul s.a1 .c2 ^^^ gmul s.a2 .c3 ^^^ s.a3
  a2 := s.a0 ^^^ s.a1 ^^^ gmul s.a2 .c2 ^^^ gmul s.a3 .c3
  a3 := gmul s.a0 .c3 ^^^ s.a1 ^^^ s.a2 ^^^ gmul s.a3 .c2

/-- One column of `InvMixColumns` (41_round_transforms.md R140). -/
def invMixColumn (s : Word) : Word where
  a0 := gmul s.a0 .ce ^^^ gmul s.a1 .cb ^^^ gmul s.a2 .cd ^^^ gmul s.a3 .c9
  a1 := gmul s.a0 .c9 ^^^ gmul s.a1 .ce ^^^ gmul s.a2 .cb ^^^ gmul s.a3 .cd
  a2 := gmul s.a0 .cd ^^^ gmul s.a1 .c9 ^^^ gmul s.a2 .ce ^^^ gmul s.a3 .cb
  a3 := gmul s.a0 .cb ^^^ gmul s.a1 .cd ^^^ gmul s.a2 .c9 ^^^ gmul s.a3 .ce

/-- `MixColumns`: every column through `mixColumn` (41_round_transforms.md R138). -/
def mixColumns (m : Block) : Block := Block.ofCols fun c => mixColumn (m.col c)

/-- `InvMixColumns`: every column through `invMixColumn` (41_round_transforms.md R140). -/
def invMixColumns (m : Block) : Block := Block.ofCols fun c => invMixColumn (m.col c)

/-- `AddRoundKey`: the XOR of the 16 bytes of the state with the 16 bytes of the round key (41_round_transforms.md R142). -/
def addRoundKey (m k : Block) : Block := blockOf fun r c => blockAt m r c ^^^ blockAt k r c

/-- SUBBYTES (41_round_transforms.md R131). -/
def execSubbytes (s : State) : Result := .next (transformS subBytes s)

/-- INVSUBBYTES (41_round_transforms.md R133). -/
def execInvsubbytes (s : State) : Result := .next (transformS invSubBytes s)

/-- SHIFTROWS (41_round_transforms.md R135). -/
def execShiftrows (s : State) : Result := .next (transformS shiftRows s)

/-- INVSHIFTROWS (41_round_transforms.md R137). -/
def execInvshiftrows (s : State) : Result := .next (transformS invShiftRows s)

/-- MIXCOLUMNS (41_round_transforms.md R139). -/
def execMixcolumns (s : State) : Result := .next (transformS mixColumns s)

/-- INVMIXCOLUMNS (41_round_transforms.md R141). -/
def execInvmixcolumns (s : State) : Result := .next (transformS invMixColumns s)

/-- ADDROUNDKEY n: E_NOKEY when `RKV = 0`, then E_ARG when `n` names no round key of the schedule, else `S` is XORed with
`RK[n]` (41_round_transforms.md R143). -/
def execAddroundkey (n : Nat) (s : State) : Result :=
  if s.RKV then
    match selectRoundKey s n with
    | none => .next (raiseErr .eArg s)
    | some k => .next (transformS (fun m => addRoundKey m k) s)
  else .next (raiseErr .eNokey s)

end Sys2Proof.Machine
end

