-- ==== Sys2Proof/Machine/KeySchedule.lean ====
section
/-! DEFINITION. The key schedule expander: `KeyExpansion` and the command KEYEXPAND (42_key_schedule.md). -/

namespace Sys2Proof.Machine

/-- `SubWord`: each byte through `SBOX` (42_key_schedule.md R161). -/
def subWord (w : Word) : Word := w.map SBOX

/-- `RotWord([a0, a1, a2, a3]) = [a1, a2, a3, a0]` (42_key_schedule.md R162). -/
def rotWord (w : Word) : Word := ⟨w.a1, w.a2, w.a3, w.a0⟩

/-- XOR of the most significant byte of a word with a constant (42_key_schedule.md R164). -/
def addRcon (w : Word) (k : Byte) : Word := { w with a0 := w.a0 ^^^ k }

/-- Word `j` of a word list. Every index a command uses is in range. -/
def wordAt (w : List Word) (j : Nat) : Word := w.getD j Word.zero

/-- `temp` of the recurrence, from word `i - 1` (42_key_schedule.md R164): rotate, substitute, add the constant at a multiple of `Nk`;
substitute only for `Nk = 8` at `i mod 8 = 4`; else unchanged. -/
def scheduleTemp (nk i : Nat) (prev : Word) : Word :=
  if i % nk = 0 then addRcon (subWord (rotWord prev)) (RCON (i / nk - 1))
  else if nk = 8 ∧ i % nk = 4 then subWord prev
  else prev

/-- `w[i] = w[i-Nk] ^ temp`, the word after the words `w[0..i-1]` (42_key_schedule.md R164). -/
def nextWord (nk : Nat) (w : List Word) : Word :=
  (wordAt w (w.length - nk)).xor (scheduleTemp nk w.length (wordAt w (w.length - 1)))

/-- `count` more words, in increasing order (42_key_schedule.md R166). -/
def expandWords (nk : Nat) : Nat → List Word → List Word
  | 0, w => w
  | count + 1, w => expandWords nk count (w ++ [nextWord nk w])

/-- Words `0..Nk-1`: the columns of the key (42_key_schedule.md R163). -/
def initialWords (key : Vector Byte 32) (nk : Nat) : List Word :=
  (List.map (keyColumn key) [0, 1, 2, 3, 4, 5, 6, 7]).take nk

/-- The number of words of a schedule, `4·(Nr+1)` with `Nr = Nk + 6` (42_key_schedule.md R160). -/
def scheduleLength (nk : Nat) : Nat := Config.Nb * (nk + 6 + 1)

/-- `KeyExpansion(k, Nk)` (42_key_schedule.md R160, R163, R164), on a key held in the key register: only its first `4*Nk` bytes are
read (R170). -/
def keyExpansion (key : Vector Byte 32) (nk : Nat) : List Word :=
  expandWords nk (scheduleLength nk - nk) (initialWords key nk)

/-- Round key `n` of a schedule: words `4n .. 4n+3` as columns (42_key_schedule.md R165). -/
def roundKeyOf (w : List Word) (n : Nat) : Block :=
  ⟨wordAt w (4 * n), wordAt w (4 * n + 1), wordAt w (4 * n + 2), wordAt w (4 * n + 3)⟩

/-- `RK[0..Nr] <-` the round keys of a schedule; the entries beyond `Nr` are not written (42_key_schedule.md R167). -/
def storeSchedule (rk : Vector Block 15) (w : List Word) (nr : Nat) : Vector Block 15 :=
  Vector.ofFn fun n => if n.val ≤ nr then roundKeyOf w n.val else rk[n]

/-- `W[j]`, the word view of the round-key store (10_state.md R25). -/
def storeWord (rk : Vector Block 15) (j : Fin 60) : Word :=
  (rk[j.val / 4]'(by have := j.isLt; omega)).col ⟨j.val % 4, Nat.mod_lt _ (by decide)⟩

/-- The register writes KEYEXPAND, CIPHER and DECIPHER share: the schedule of `KEY[0..KLEN-1]` into `RK`
(42_key_schedule.md R167, 43_cipher_decipher.md R182, R184). -/
def loadSchedule (s : State) : State :=
  s.withRK (storeSchedule s.RK (keyExpansion s.KEY (nkOf s.KLEN)) (nrOf s.KLEN))

/-- KEYEXPAND: E_KEYLEN when `KLEN` is not 16, 24 or 32, else the schedule into `RK` and `RKV <- 1` (42_key_schedule.md R167). -/
def execKeyexpand (s : State) : Result :=
  if klenLegal s.KLEN then .next (done ((loadSchedule s).withRKV true))
  else .next (raiseErr .eKeylen s)

end Sys2Proof.Machine
end

