-- ==== Sys2Proof/Machine/AddressMap.lean ====
section
/-! DEFINITION. The address map of the host port: which register each of the 512 addresses reaches, and what a read of it returns
(20_memory.md R63 to R70). The core has no other memory (R77), so this map is the whole of its address space. -/

namespace Sys2Proof.Machine

/-- What an address names (20_memory.md R63). -/
inductive Location where
  /-- `SB[i]`, state, byte-sequence view (20_memory.md R64). -/
  | sb (i : Fin 16)
  /-- `SM[r][c]`, state, matrix view (20_memory.md R65). -/
  | sm (r c : Fin 4)
  /-- `KEY[i]`, key, byte-sequence view (20_memory.md R66). -/
  | key (i : Fin 32)
  /-- `KM[r][c]`, key, matrix view (20_memory.md R67). -/
  | km (r : Fin 4) (c : Fin 8)
  | klen
  | cmd
  | err
  | status
  | param
  | rkcnt
  | gfa
  | gfr
  /-- `RKB[n][i]`, round key `n`, byte-sequence view (20_memory.md R68). -/
  | rkb (n : Fin 15) (i : Fin 16)
  /-- A reserved address (20_memory.md R70). -/
  | reserved
  deriving DecidableEq, Repr

/-- The control and status registers at 0x060 to 0x067; every other address that is in no window is reserved
(20_memory.md R63, R69, R70). -/
def locateControl (a : Nat) : Location :=
  match a with
  | 0x060 => .klen
  | 0x061 => .cmd
  | 0x062 => .err
  | 0x063 => .status
  | 0x064 => .param
  | 0x065 => .rkcnt
  | 0x066 => .gfa
  | 0x067 => .gfr
  | _ => .reserved

/-- The location of an address, window by window (20_memory.md R63). In the windows `SM` and `KM` the offset is `4r + c` and
`8r + c`; in `RKB` it is `16n + i`. -/
def locate (addr : Addr) : Location :=
  let a := addr.toNat
  if a < 0x010 then .sb (Fin.ofNat 16 a)
  else if a < 0x020 then .sm (Fin.ofNat 4 ((a - 0x010) / 4)) (Fin.ofNat 4 (a - 0x010))
  else if a < 0x040 then .key (Fin.ofNat 32 (a - 0x020))
  else if a < 0x060 then .km (Fin.ofNat 4 ((a - 0x040) / 8)) (Fin.ofNat 8 (a - 0x040))
  else if 0x100 ≤ a ∧ a < 0x1F0 then .rkb (Fin.ofNat 15 ((a - 0x100) / 16)) (Fin.ofNat 16 (a - 0x100))
  else locateControl a

/-- A byte of the `RKB` window: `RK[n][i]` only when `RKV = 1` and `n <= Nr`, else `0x00` (20_memory.md R68). -/
def readRoundKeyByte (s : State) (n : Fin 15) (i : Fin 16) : Byte :=
  if s.RKV ∧ n.val ≤ nrOf s.KLEN then blockByte s.RK[n] i else 0x00#8

/-- What a read of a location returns (20_memory.md R63). `CMD` and the reserved addresses read as `0x00` (R70, 10_state.md R31). -/
def readLocation (s : State) : Location → Byte
  | .sb i => blockByte s.S i
  | .sm r c => blockAt s.S r c
  | .key i => s.KEY[i]
  | .km r c => s.KEY[keyIndex r c]
  | .klen => s.KLEN
  | .cmd => 0x00#8
  | .err => s.ERR
  | .status => statusByte s
  | .param => paramByte s
  | .rkcnt => rkcntByte s
  | .gfa => s.GFA
  | .gfr => s.GFR
  | .rkb n i => readRoundKeyByte s n i
  | .reserved => 0x00#8

/-- `MemRead(addr, 1)`: the byte a read returns (20_memory.md R61). It is a function of the state alone and changes nothing. -/
def hostRead (s : State) (addr : Addr) : Byte := readLocation s (locate addr)

/-- The address of the command register (20_memory.md R63). -/
def cmdAddr : Addr := 0x061#9

/-- The address of `SB[i]` (20_memory.md R63). -/
def sbAddr (i : Fin 16) : Addr := BitVec.ofNat 9 i.val

/-- The address of `SM[r][c]` (20_memory.md R63). -/
def smAddr (r c : Fin 4) : Addr := BitVec.ofNat 9 (0x010 + 4 * r.val + c.val)

/-- The address of `KEY[i]` (20_memory.md R63). -/
def keyAddr (i : Fin 32) : Addr := BitVec.ofNat 9 (0x020 + i.val)

/-- The address of `KM[r][c]` (20_memory.md R63). -/
def kmAddr (r : Fin 4) (c : Fin 8) : Addr := BitVec.ofNat 9 (0x040 + 8 * r.val + c.val)

/-- The address of `RKB[n][i]` (20_memory.md R63). -/
def rkbAddr (n : Fin 15) (i : Fin 16) : Addr := BitVec.ofNat 9 (0x100 + 16 * n.val + i.val)

end Sys2Proof.Machine
end

