-- ==== Sys2Proof/Machine/Cipher.lean ====
section
/-! DEFINITION. The cipher and decipher drivers and the commands CIPHER and DECIPHER (43_cipher_decipher.md). -/

namespace Sys2Proof.Machine

/-- The body of the encryption loop: SubBytes, ShiftRows, MixColumns, AddRoundKey, in that order (43_cipher_decipher.md R180, R181). -/
def cipherRound (w : List Word) (st : Block) (round : Nat) : Block :=
  addRoundKey (mixColumns (shiftRows (subBytes st))) (roundKeyOf w round)

/-- The round numbers of the loop, `1 .. Nr-1` in increasing order (43_cipher_decipher.md R180). -/
def middleRounds (nr : Nat) : List Nat := List.range' 1 (nr - 1)

/-- The encryption of a block under a schedule `w` of `Nr` rounds (43_cipher_decipher.md R180). MixColumns is omitted in the final round. -/
def cipherWith (w : List Word) (nr : Nat) (p : Block) : Block :=
  let st := addRoundKey p (roundKeyOf w 0)
  let st := (middleRounds nr).foldl (cipherRound w) st
  addRoundKey (shiftRows (subBytes st)) (roundKeyOf w nr)

/-- `Cipher(p, k, Nk)` (43_cipher_decipher.md R180). -/
def cipher (p : Block) (key : Vector Byte 32) (nk : Nat) : Block :=
  cipherWith (keyExpansion key nk) (nk + 6) p

/-- The body of the decryption loop: AddRoundKey, InvMixColumns, InvShiftRows, InvSubBytes; the order "must be preserved exactly"
(43_cipher_decipher.md R183, R185, 90_conflicts.md C1). -/
def decipherRound (w : List Word) (st : Block) (round : Nat) : Block :=
  invSubBytes (invShiftRows (invMixColumns (addRoundKey st (roundKeyOf w round))))

/-- The decryption of a block under a schedule `w` of `Nr` rounds: the round keys of the encryption, unmodified, in reverse order
(43_cipher_decipher.md R183). -/
def decipherWith (w : List Word) (nr : Nat) (q : Block) : Block :=
  let st := addRoundKey q (roundKeyOf w nr)
  let st := invSubBytes (invShiftRows st)
  let st := (middleRounds nr).reverse.foldl (decipherRound w) st
  addRoundKey st (roundKeyOf w 0)

/-- `Decipher(q, k, Nk)` (43_cipher_decipher.md R183). -/
def decipher (q : Block) (key : Vector Byte 32) (nk : Nat) : Block :=
  decipherWith (keyExpansion key nk) (nk + 6) q

/-- The common form of CIPHER and DECIPHER: E_KEYLEN when `KLEN` is not 16, 24 or 32; else the schedule is computed from `KEY` and
`KLEN` whatever `RKV` and `RK` held, `S` is replaced, and the schedule is given up by `RKV <- 0`
(43_cipher_decipher.md R182, R184, R188). -/
def runDriver (f : Block → Vector Byte 32 → Nat → Block) (s : State) : State :=
  if klenLegal s.KLEN then done (((loadSchedule s).withS (f s.S s.KEY (nkOf s.KLEN))).withRKV false)
  else raiseErr .eKeylen s

/-- CIPHER (43_cipher_decipher.md R182). -/
def execCipher (s : State) : Result := .next (runDriver cipher s)

/-- DECIPHER (43_cipher_decipher.md R184). -/
def execDecipher (s : State) : Result := .next (runDriver decipher s)

end Sys2Proof.Machine
end

