-- ==== Sys2Proof/Machine/Dispatch.lean ====
section
/-! DEFINITION. The dispatch of a command to its meaning, one arm per constructor (30_encoding.md R91). -/

namespace Sys2Proof.Machine

def exec (i : Instr) (s : State) : Host.Outcome State Fault Refusal :=
  match i with
  | .cipher => Sys2Proof.Machine.execCipher s
  | .decipher => Sys2Proof.Machine.execDecipher s
  | .keyexpand => Sys2Proof.Machine.execKeyexpand s
  | .subbytes => Sys2Proof.Machine.execSubbytes s
  | .invsubbytes => Sys2Proof.Machine.execInvsubbytes s
  | .shiftrows => Sys2Proof.Machine.execShiftrows s
  | .invshiftrows => Sys2Proof.Machine.execInvshiftrows s
  | .mixcolumns => Sys2Proof.Machine.execMixcolumns s
  | .invmixcolumns => Sys2Proof.Machine.execInvmixcolumns s
  | .addroundkey n => Sys2Proof.Machine.execAddroundkey n s
  | .xtime => Sys2Proof.Machine.execXtime s
  | .gmul c => Sys2Proof.Machine.execGmul c s

end Sys2Proof.Machine
end

