-- ==== Sys2Proof/Machine/Port.lean ====
section
/-! DEFINITION. The host port: what one transaction or a reset does, and how the machine takes the next one from the host
(20_memory.md R60 to R72, 70_reset_and_hazards.md R230). -/

namespace Sys2Proof.Machine

/-- The execution of the byte written to `CMD`: decode it, report E_ILLCMD if it is illegal, else execute the command to completion
(10_state.md R31, 60_exceptions.md R204). -/
def runCommand (v : Byte) (s : State) : Result :=
  match decode v with
  | .illegal => .next (raiseErr .eIllcmd s)
  | .command i => exec i s

/-- What a write of `v` to a location does (20_memory.md R62, R63, R71): a store, or a store that clears `RKV`, or a command, or
nothing at a read-only or reserved location. -/
def writeLocation (v : Byte) (s : State) : Location → Result
  | .sb i => .next (s.withS (setAt s.S (rowOf i) (colOf i) v))
  | .sm r c => .next (s.withS (setAt s.S r c v))
  | .key i => .next (writeKeyByte i v s)
  | .km r c => .next (writeKeyByte (keyIndex r c) v s)
  | .klen => .next (writeKlen v s)
  | .cmd => runCommand v s
  | .err => .next s
  | .status => .next s
  | .param => .next s
  | .rkcnt => .next s
  | .gfa => .next (s.withGFA v)
  | .gfr => .next s
  | .rkb _ _ => .next s
  | .reserved => .next s

/-- `MemWrite(addr, 1, v)` (20_memory.md R62). -/
def hostWrite (addr : Addr) (v : Byte) (s : State) : Result := writeLocation v s (locate addr)

/-- One event of the host. A reset is taken at any time. A transaction is served only when a reset has been taken since power-up:
"no transaction may be issued in it" (70_reset_and_hazards.md R230; 93_implementation_defined.md U14, treatment `refuse`). -/
def serve (e : HostEvent) (s : State) : Result :=
  match e with
  | .reset => .next (takeReset s)
  | .read addr => if s.resetDone then .next (s.withReads (hostRead s addr :: s.reads)) else .refused .transactionBeforeReset
  | .write addr v => if s.resetDone then hostWrite addr v s else .refused .transactionBeforeReset

/-- The next thing that happens: the first pending event of the host is taken and served to completion; with none pending the core is
idle and holds all its state (20_memory.md R78, 60_exceptions.md R215). -/
def serveNext (s : State) : Result :=
  match s.host with
  | [] => .next s
  | e :: rest => serve e (s.withHost rest)

/-- The host's next event becomes the write of a command byte to `CMD`, ahead of everything it had pending, in a core that has been
reset. -/
def queueCommand (v : Byte) (s : State) : State := (s.withHost (.write cmdAddr v :: s.host)).withResetDone true

end Sys2Proof.Machine
end

