-- ==== Sys2Proof/Machine/Step.lean ====
section
/-! DEFINITION. One step of the machine: the next event of the host, served to completion (00_scope.md R9, 20_memory.md R60).
There is no program counter and no fetch (10_state.md R36): a program is the list of the host's transactions, and a command is a
write to `CMD`. -/

namespace Sys2Proof.Machine

/-- One step. -/
def step (s : State) : Host.Outcome State Fault Refusal := serveNext s

/-- The state whose very next step executes the command byte `w`: the host's next event is the write of `w` to `CMD`. Every command is
one byte (30_encoding.md R90), so `nbits` is 8 and the bits above it do not exist. -/
def State.withFetchWord (s : State) (_nbits w : Nat) : State := queueCommand (BitVec.ofNat 8 w) s

end Sys2Proof.Machine
end

