-- ==== Sys2Proof/Machine/Trace.lean ====
section
/-! DEFINITION. The optional trace hook (43_cipher_decipher.md R190, 60_exceptions.md R216). It is not part of the state and no step reads it:
it is the list of snapshots, each with its label, that a sink would be shown. What the spec leaves open of it (the labels, which
round keys are shown, whether KEYEXPAND is traced) is free in Config.lean (91_not_in_source.md N9; log entry 7). -/

namespace Sys2Proof.Machine

/-- The snapshots of one middle round of encryption, after each transform. -/
def cipherRoundTrace (w : List Word) (st : Block) (round : Nat) : List Block :=
  let a := subBytes st
  let b := shiftRows a
  let c := mixColumns b
  [a, b, c, addRoundKey c (roundKeyOf w round)]

/-- The snapshots of one middle round of decryption, after each transform. -/
def decipherRoundTrace (w : List Word) (st : Block) (round : Nat) : List Block :=
  let a := addRoundKey st (roundKeyOf w round)
  let b := invMixColumns a
  let c := invShiftRows b
  [a, b, c, invSubBytes c]

/-- The snapshots of a loop of rounds, and the block it ends with. -/
def roundsTrace (step : Block → Nat → Block) (snap : Block → Nat → List Block) : List Nat → Block → List Block × Block
  | [], st => ([], st)
  | r :: rs, st =>
    let rest := roundsTrace step snap rs (step st r)
    (snap st r ++ rest.1, rest.2)

/-- The checkpoints of `Cipher`: "the ends of the lines that assign `st`" (43_cipher_decipher.md R190), the first of them the input. -/
def cipherTrace (w : List Word) (nr : Nat) (p : Block) : List Block :=
  let st := addRoundKey p (roundKeyOf w 0)
  let mid := roundsTrace (cipherRound w) (cipherRoundTrace w) (middleRounds nr) st
  let a := subBytes mid.2
  let b := shiftRows a
  [p, st] ++ mid.1 ++ [a, b, addRoundKey b (roundKeyOf w nr)]

/-- The checkpoints of `Decipher` (43_cipher_decipher.md R183, R190). -/
def decipherTrace (w : List Word) (nr : Nat) (q : Block) : List Block :=
  let a := addRoundKey q (roundKeyOf w nr)
  let b := invShiftRows a
  let c := invSubBytes b
  let mid := roundsTrace (decipherRound w) (decipherRoundTrace w) (middleRounds nr).reverse c
  [q, a, b, c] ++ mid.1 ++ [addRoundKey mid.2 (roundKeyOf w 0)]

/-- The checkpoint of a step command: `S` after it, whether it succeeded or raised an error ("after each step command",
60_exceptions.md R216). -/
def stepTrace (r : Result) : List Block :=
  match r with
  | .next t => [t.S]
  | .fault _ => []
  | .refused _ => []

/-- The checkpoints of a command, as the value `st` or `S` has there. CIPHER and DECIPHER that fail reach none. XTIME and GMUL
transform no block and are no step commands (60_exceptions.md R218; DEDUCED, log entry 7). -/
def checkpoints (i : Instr) (s : State) : List Block :=
  match i with
  | .cipher => if klenLegal s.KLEN then cipherTrace (keyExpansion s.KEY (nkOf s.KLEN)) (nrOf s.KLEN) s.S else []
  | .decipher => if klenLegal s.KLEN then decipherTrace (keyExpansion s.KEY (nkOf s.KLEN)) (nrOf s.KLEN) s.S else []
  | .keyexpand => if Config.traceKeyexpand then stepTrace (execKeyexpand s) else []
  | .subbytes => stepTrace (execSubbytes s)
  | .invsubbytes => stepTrace (execInvsubbytes s)
  | .shiftrows => stepTrace (execShiftrows s)
  | .invshiftrows => stepTrace (execInvshiftrows s)
  | .mixcolumns => stepTrace (execMixcolumns s)
  | .invmixcolumns => stepTrace (execInvmixcolumns s)
  | .addroundkey n => stepTrace (execAddroundkey n s)
  | .xtime => []
  | .gmul _ => []

/-- The round key of number `n`, taken round the `Nr + 1` of them, of the schedule CIPHER and DECIPHER compute. -/
def scheduleKey (s : State) (n : Nat) : Option Block :=
  some (roundKeyOf (keyExpansion s.KEY (nkOf s.KLEN)) (n % (nrOf s.KLEN + 1)))

/-- The same of the schedule in `RK` after a step command: none when `RKV = 0`, since there is then no round key
(10_state.md R26). -/
def storedKey (r : Result) (n : Nat) : Option Block :=
  match r with
  | .next t => if t.RKV then selectRoundKey t (n % (nrOf t.KLEN + 1)) else none
  | .fault _ => none
  | .refused _ => none

/-- The round keys a command's snapshots can show. -/
def traceKeys (i : Instr) (s : State) : Nat → Option Block :=
  match i with
  | .cipher => scheduleKey s
  | .decipher => scheduleKey s
  | .keyexpand => storedKey (execKeyexpand s)
  | .subbytes => storedKey (execSubbytes s)
  | .invsubbytes => storedKey (execInvsubbytes s)
  | .shiftrows => storedKey (execShiftrows s)
  | .invshiftrows => storedKey (execInvshiftrows s)
  | .mixcolumns => storedKey (execMixcolumns s)
  | .invmixcolumns => storedKey (execInvmixcolumns s)
  | .addroundkey n => storedKey (execAddroundkey n s)
  | .xtime => fun _ => none
  | .gmul _ => fun _ => none

/-- One presentation of the trace port: a label and 16 bytes (60_exceptions.md R216). -/
structure Snapshot where
  label : List Byte
  data : Block
  deriving DecidableEq, Repr

/-- The commands with checkpoints inside them, CIPHER and DECIPHER; the others have one after them (60_exceptions.md R216). -/
def tracedInside : Instr → Bool
  | .cipher => true
  | .decipher => true
  | .keyexpand => false
  | .subbytes => false
  | .invsubbytes => false
  | .shiftrows => false
  | .invshiftrows => false
  | .mixcolumns => false
  | .invmixcolumns => false
  | .addroundkey _ => false
  | .xtime => false
  | .gmul _ => false

/-- The blocks presented at a checkpoint where `S` is `b`, with the round keys `keys` to be shown there. Inside CIPHER and DECIPHER the
sink sees `S` at every checkpoint (43_cipher_decipher.md R190, 95_test_vectors.md section 3) and may see round keys beside it; after a
step command it sees "the 16 bytes of `S` (or of a round key)" (60_exceptions.md R216). -/
def shownBlocks (inside : Bool) (keys : List Block) (b : Block) : List Block :=
  if inside then b :: keys
  else
    match keys with
    | [] => [b]
    | k :: _ => [k]

/-- The snapshots at checkpoint `index`, where `S` is `b`. -/
def snapshotsAt (i : Instr) (s : State) (index : Nat) (b : Block) : List Snapshot :=
  let keys := (Config.traceRoundKeys (encode i) s.KLEN index).filterMap (traceKeys i s)
  (shownBlocks (tracedInside i) keys b).mapIdx fun place x => ⟨Config.traceLabel (encode i) s.KLEN index place, x⟩

/-- What the trace port presents for a command. `installed` is the parameter `TRACE`, absent by default: with it false there is
nothing (60_exceptions.md R216, 43_cipher_decipher.md R190). -/
def tracePort (installed : Bool) (i : Instr) (s : State) : List Snapshot :=
  if installed then ((checkpoints i s).mapIdx (snapshotsAt i s)).flatten else []

end Sys2Proof.Machine
end

