-- ==== Sys2Proof/Safety.lean ====
section
/-! DEFINITION. The terms the statements are written in: the invariant of every reachable state, what an observer of the port can tell
apart, sequences of commands, and two reference functions (field multiplication and the algebraic S-box) that the model's own
meanings do not use. -/

namespace Sys2Proof.Machine

/-- The invariant of 10_state.md R27: if `RKV = 1` then `KLEN` is legal and every word `W[j]` of the schedule, `j` in
`0..4·(Nr+1)-1`, is word `j` of the key expansion of the key now in `KEY`. -/
def ScheduleCurrent (s : State) : Prop :=
  s.RKV = true →
    klenLegal s.KLEN = true ∧
    ∀ j : Fin 60, j.val < 4 * (nrOf s.KLEN + 1) →
      storeWord s.RK j = wordAt (keyExpansion s.KEY (nkOf s.KLEN)) j.val

/-- `ERR` holds one of the five values of 60_exceptions.md R203. -/
def ErrLegal (s : State) : Prop := s.ERR ∈ [0x00#8, 0x01#8, 0x02#8, 0x03#8, 0x04#8]

/-- The invariant of the machine: the schedule is current, the error code is a code, and a reset has been taken. -/
def Inv (s : State) : Prop := ScheduleCurrent s ∧ ErrLegal s ∧ s.resetDone = true

/-- Two states an observer of the port cannot tell apart (10_state.md R39): they agree in everything but the hidden bytes of `RK`, which
are all of `RK` when `RKV = 0` and the entries beyond `Nr` when `RKV = 1`. -/
def SameVisible (s t : State) : Prop :=
  t = { s with RK := t.RK } ∧
  (s.RKV = true → ∀ n : Fin 15, n.val ≤ nrOf s.KLEN → s.RK[n] = t.RK[n])

/-- Two states that agree in `KEY[0..KLEN-1]` and in everything but `KEY` (42_key_schedule.md R170). -/
def SameUsedKey (s t : State) : Prop :=
  t = { s with KEY := t.KEY } ∧ ∀ i : Fin 32, i.val < s.KLEN.toNat → s.KEY[i] = t.KEY[i]

/-- Commands run one after another, stopping at the first that gives no next state. -/
def execList : List Instr → State → Result
  | [], s => .next s
  | i :: is, s =>
    match exec i s with
    | .next t => execList is t
    | .fault f => .fault f
    | .refused r => .refused r

/-- `S` after each of a list of commands run one after another, up to the first that gives no next state. -/
def blocksAfter : List Instr → State → List Block
  | [], _ => []
  | i :: is, s =>
    match exec i s with
    | .next t => t.S :: blocksAfter is t
    | .fault _ => []
    | .refused _ => []

/-- The step-by-step encryption of 43_cipher_decipher.md R189. -/
def encryptCommands (nr : Nat) : List Instr :=
  [.keyexpand, .addroundkey 0]
    ++ ((List.range' 1 (nr - 1)).map fun round => [.subbytes, .shiftrows, .mixcolumns, .addroundkey round]).flatten
    ++ [.subbytes, .shiftrows, .addroundkey nr]

/-- The step-by-step decryption of 43_cipher_decipher.md R189. -/
def decryptCommands (nr : Nat) : List Instr :=
  [.keyexpand, .addroundkey nr, .invshiftrows, .invsubbytes]
    ++ ((List.range' 1 (nr - 1)).reverse.map fun round =>
        [.addroundkey round, .invmixcolumns, .invshiftrows, .invsubbytes]).flatten
    ++ [.addroundkey 0]

/-- The block written as 32 hexadecimal digits, the leftmost pair byte 0 (00_scope.md R13). -/
def hexBlock (n : Nat) : Block := blockOfBytes fun i => BitVec.ofNat 8 (n >>> (8 * (15 - i.val)))

/-- The key register holding the 64 hexadecimal digits `n`, the leftmost pair byte 0 (00_scope.md R13, R15). -/
def hexKey (n : Nat) : Vector Byte 32 := Vector.ofFn fun i => BitVec.ofNat 8 (n >>> (8 * (31 - i.val)))

/-- The product of two polynomials over GF(2), bit `i` the coefficient of `x^i` (40_gf_arithmetic.md R111), for a second factor of
degree at most 7. -/
def polyMul (a b : Nat) : Nat :=
  ([0, 1, 2, 3, 4, 5, 6, 7].map fun i => if b.testBit i then a <<< i else 0).foldl (· ^^^ ·) 0

/-- The remainder of a polynomial of degree at most 14 modulo `x^8 + x^4 + x^3 + x + 1`, by long division
(40_gf_arithmetic.md R111). -/
def polyMod (p : Nat) : Nat :=
  [6, 5, 4, 3, 2, 1, 0].foldl (fun q k => if q.testBit (8 + k) then q ^^^ (0x11B <<< k) else q) p

/-- Multiplication in GF(2^8) modulo 0x11B (40_gf_arithmetic.md R111). The unit does not implement it; statements compare with it. -/
def fieldMul (a b : Byte) : Byte := BitVec.ofNat 8 (polyMod (polyMul a.toNat b.toNat))

/-- The affine map of the algebraic definition of the S-box (10_state.md R43). -/
def sboxAffine (t : Byte) : Byte :=
  t ^^^ t.rotateLeft 1 ^^^ t.rotateLeft 2 ^^^ t.rotateLeft 3 ^^^ t.rotateLeft 4 ^^^ 0x63#8

/-- The fixed matrix of MixColumns (41_round_transforms.md R138). -/
def mixMatrix (r k : Fin 4) : Byte := blockAt (hexBlock 0x02010103030201010103020101010302) r k

/-- The fixed matrix of InvMixColumns (41_round_transforms.md R140). -/
def invMixMatrix (r k : Fin 4) : Byte := blockAt (hexBlock 0x0e090d0b0b0e090d0d0b0e09090d0b0e) r k

/-- Row `r` of a matrix times a column, over GF(2^8): the XOR over `k` of (entry `r`, `k`) times (row `k` of the column)
(41_round_transforms.md R138). -/
def matrixTimes (coef : Fin 4 → Fin 4 → Byte) (col : Fin 4 → Byte) (r : Fin 4) : Byte :=
  fieldMul (col 0) (coef r 0) ^^^ fieldMul (col 1) (coef r 1) ^^^ fieldMul (col 2) (coef r 2) ^^^ fieldMul (col 3) (coef r 3)

/-- The block of sixteen equal bytes. -/
def constBlock (v : Byte) : Block := blockOf fun _ _ => v

/-- The locations through which a byte of `S` is seen. -/
def Location.isState : Location → Bool
  | .sb _ => true
  | .sm _ _ => true
  | _ => false

/-- The locations whose reads are computed from `ERR`: `ERR` itself and `STATUS` (10_state.md R32, R33). -/
def Location.isErr : Location → Bool
  | .err => true
  | .status => true
  | _ => false

/-- The locations whose reads depend on the round keys: `STATUS`, `RKCNT` and the window `RKB` (10_state.md R26). -/
def Location.isSchedule : Location → Bool
  | .status => true
  | .rkcnt => true
  | .rkb _ _ => true
  | _ => false

/-- The stored byte a location names, under one name for the two windows that reach it (20_memory.md R65, R67). -/
def Location.cell : Location → Location
  | .sm r c => .sb (seqIndex r c)
  | .km r c => .key (keyIndex r c)
  | l => l

end Sys2Proof.Machine
end

