-- ==== Sys2Proof/Certificates/Slice0/Obligations.lean ====
section
/-! DEFINITION. The statements about the model, each formalising rules of spec/. -/

open Sys2Proof Sys2Proof.Machine

/-! ## Encoding -/

/-- Decoding and encoding agree, both ways: every well-formed command, with every operand the encoding admits, is read back from its
byte, and a byte is read as a command only if it is that command's byte (30_encoding.md R91, R92, R93, R99). -/
def Obligations.DecodeEncodeAgree : Prop :=
  (∀ i : Instr, i.wellFormed = true → decode (encode i) = .command i) ∧
  (∀ (v : Byte) (i : Instr), decode v = .command i → i.wellFormed = true ∧ encode i = v)

/-- The opcode map of 30_encoding.md R91: each command is selected by `(v & mask) = match`, the operand is the field `ARG`, and the
twelve rows take 42 of the 256 bytes. -/
def Obligations.OpcodeMapSelects : Prop :=
  (∀ v : Byte,
    (decode v = .command .cipher ↔ v &&& 0xFF#8 = 0x10#8) ∧
    (decode v = .command .decipher ↔ v &&& 0xFF#8 = 0x11#8) ∧
    (decode v = .command .keyexpand ↔ v &&& 0xFF#8 = 0x20#8) ∧
    (decode v = .command .subbytes ↔ v &&& 0xFF#8 = 0x30#8) ∧
    (decode v = .command .invsubbytes ↔ v &&& 0xFF#8 = 0x31#8) ∧
    (decode v = .command .shiftrows ↔ v &&& 0xFF#8 = 0x40#8) ∧
    (decode v = .command .invshiftrows ↔ v &&& 0xFF#8 = 0x41#8) ∧
    (decode v = .command .mixcolumns ↔ v &&& 0xFF#8 = 0x50#8) ∧
    (decode v = .command .invmixcolumns ↔ v &&& 0xFF#8 = 0x51#8) ∧
    (∀ n, decode v = .command (.addroundkey n) ↔ v &&& 0xF0#8 = 0x60#8 ∧ n = v.toNat % 16) ∧
    (decode v = .command .xtime ↔ v &&& 0xFF#8 = 0x70#8) ∧
    (∀ c, decode v = .command (.gmul c) ↔ v &&& 0xF0#8 = 0x80#8 ∧ c = v.toNat % 16)) ∧
  ((List.range 256).filter fun v => decode (BitVec.ofNat 8 v) != .illegal).length = 42

/-- The 214 illegal bytes of 30_encoding.md R94, all of them and no others, and what writing one to `CMD` does: `ERR <- 0x02` and
nothing else (R94, R95, 60_exceptions.md R207). -/
def Obligations.IllegalBytesReportError : Prop :=
  (∀ v : Byte, decode v = .illegal ↔
    (v.toNat ≤ 0x0F ∨ (0x12 ≤ v.toNat ∧ v.toNat ≤ 0x1F) ∨ (0x21 ≤ v.toNat ∧ v.toNat ≤ 0x2F) ∨
     (0x32 ≤ v.toNat ∧ v.toNat ≤ 0x3F) ∨ (0x42 ≤ v.toNat ∧ v.toNat ≤ 0x4F) ∨ (0x52 ≤ v.toNat ∧ v.toNat ≤ 0x5F) ∨
     (0x71 ≤ v.toNat ∧ v.toNat ≤ 0x7F) ∨ 0x90 ≤ v.toNat)) ∧
  ((List.range 256).filter fun v => decode (BitVec.ofNat 8 v) == .illegal).length = 214 ∧
  (∀ (v : Byte) (s : State), decode v = .illegal → hostWrite 0x061#9 v s = .next { s with ERR := 0x02#8 })

/-- The operands of ADDROUNDKEY and GMUL are `ARG` unchanged, all sixteen values decode, and an operand that is not acceptable gives
E_ARG at execution, not E_ILLCMD (30_encoding.md R92, R93; the first in every state that meets the invariant of 10_state.md R27). -/
def Obligations.OperandsUnscaled : Prop :=
  (∀ n, n < 16 → decode (BitVec.ofNat 8 (0x60 + n)) = .command (.addroundkey n)) ∧
  (∀ c, c < 16 → decode (BitVec.ofNat 8 (0x80 + c)) = .command (.gmul c)) ∧
  (∀ (s : State) (n : Nat), ScheduleCurrent s → n < 16 → s.RKV = true → (n = 15 ∨ nrOf s.KLEN < n) →
    hostWrite 0x061#9 (BitVec.ofNat 8 (0x60 + n)) s = .next { s with ERR := 0x03#8 }) ∧
  (∀ (s : State) (c : Nat), c < 16 → c ∉ [0x1, 0x2, 0x3, 0x9, 0xb, 0xd, 0xe] →
    hostWrite 0x061#9 (BitVec.ofNat 8 (0x80 + c)) s = .next { s with ERR := 0x03#8 }) ∧
  decode 0x89#8 = .command (.gmul 0x9) ∧ decode 0x8E#8 = .command (.gmul 0xe) ∧ decode 0x84#8 = .command (.gmul 4)

/-- Bytes written out from the fields `OP` and `ARG` of 30_encoding.md R90 and R91 decode to their commands. -/
def Obligations.WrittenBytesDecode : Prop :=
  decode (0x1#4 ++ 0x0#4) = .command .cipher ∧ decode (0x1#4 ++ 0x1#4) = .command .decipher ∧
  decode (0x2#4 ++ 0x0#4) = .command .keyexpand ∧ decode (0x4#4 ++ 0x1#4) = .command .invshiftrows ∧
  decode (0x6#4 ++ 0xA#4) = .command (.addroundkey 10) ∧ decode (0x7#4 ++ 0x0#4) = .command .xtime ∧
  decode (0x8#4 ++ 0xE#4) = .command (.gmul 0xe) ∧ decode (0x0#4 ++ 0x0#4) = .illegal

/-! ## Parameters and tables -/

/-- The table of 00_scope.md R6: three legal key lengths, with `Nk = KLEN/4`, `Nr = Nk + 6`, `Nr + 1` round keys and `4·(Nr+1)`
schedule words; `Nb` is 4. -/
def Obligations.KeyLengthTable : Prop :=
  (∀ k : Byte, klenLegal k = true ↔ k.toNat ∈ [16, 24, 32]) ∧
  (∀ k : Byte, klenLegal k = true →
    (k.toNat, nkOf k, nrOf k, nrOf k + 1, scheduleLength (nkOf k)) ∈
      [(16, 4, 10, 11, 44), (24, 6, 12, 13, 52), (32, 8, 14, 15, 60)]) ∧
  Config.Nb = 4

/-- The laws of the substitution tables (10_state.md R43): mutually inverse, no fixed point, no opposite fixed point, and the algebraic
definition (`t` the inverse of `b` in the field, 0 for 0). -/
def Obligations.SboxLaws : Prop :=
  (∀ b : Byte, INVSBOX (SBOX b) = b) ∧ (∀ b : Byte, SBOX (INVSBOX b) = b) ∧
  (∀ b : Byte, SBOX b ≠ b) ∧ (∀ b : Byte, SBOX b ≠ b ^^^ 0xFF#8) ∧
  (SBOX 0x00#8 = sboxAffine 0x00#8) ∧
  (∀ b : Byte, b ≠ 0x00#8 → ∃ t : Byte, fieldMul b t = 0x01#8 ∧ SBOX b = sboxAffine t)

/-- The round constants (10_state.md R42): ten values, each `xtime` of the one before, and the indices the three schedules use are
`0..9`, `0..7` and `0..6` (42_key_schedule.md R168). -/
def Obligations.RconTable : Prop :=
  (List.range 10).map RCON = [0x01#8, 0x02#8, 0x04#8, 0x08#8, 0x10#8, 0x20#8, 0x40#8, 0x80#8, 0x1b#8, 0x36#8] ∧
  (∀ j, j < 9 → RCON (j + 1) = xtime (RCON j)) ∧
  (∀ nk last, (nk, last) ∈ [(4, 9), (6, 7), (8, 6)] →
    ∀ j, (∃ i, nk ≤ i ∧ i < 4 * (nk + 6 + 1) ∧ i % nk = 0 ∧ j = i / nk - 1) ↔ j ≤ last)

/-! ## Galois-field unit -/

/-- `xtime` (40_gf_arithmetic.md R110): twice the byte while bit 7 is clear; otherwise twice the byte without the bit shifted out, with
`0x1B` folded in. -/
def Obligations.XtimeShiftsAndFolds : Prop :=
  (∀ b : Byte, b.toNat < 128 → (xtime b).toNat = 2 * b.toNat) ∧
  (∀ b : Byte, 128 ≤ b.toNat → xtime b = BitVec.ofNat 8 (2 * b.toNat - 256) ^^^ 0x1B#8) ∧
  xtime 0x57#8 = 0xae#8 ∧ xtime 0xae#8 = 0x47#8 ∧ xtime 0x80#8 = 0x1b#8 ∧ xtime 0x00#8 = 0x00#8 ∧ xtime 0xff#8 = 0xe5#8

/-- `gmul` (40_gf_arithmetic.md R112): defined on the seven constants only; the nested column of the table; the general form, the XOR of
`xtime` applied `i` times over the bits `i` of the constant. -/
def Obligations.GmulTable : Prop :=
  (∀ c, (∃ k : GConst, selectConst c = some k ∧ k.toNat = c) ↔ c ∈ [0x1, 0x2, 0x3, 0x9, 0xb, 0xd, 0xe]) ∧
  (∀ a : Byte,
    gmul a .c1 = a ∧ gmul a .c2 = xtime a ∧ gmul a .c3 = xtime a ^^^ a ∧
    gmul a .c9 = xtime (xtime (xtime a)) ^^^ a ∧
    gmul a .cb = xtime (xtime (xtime a) ^^^ a) ^^^ a ∧
    gmul a .cd = xtime (xtime (xtime a ^^^ a)) ^^^ a ∧
    gmul a .ce = xtime (xtime (xtime a ^^^ a) ^^^ a)) ∧
  (∀ (a : Byte) (k : GConst),
    gmul a k = ([0, 1, 2, 3].filter k.toNat.testBit).foldl (fun acc i => acc ^^^ xtime^[i] a) 0x00#8) ∧
  gmul 0x57#8 .c3 = 0xf9#8 ∧ gmul 0x57#8 .ce = 0x67#8 ∧ gmul 0x80#8 .c9 = 0xec#8

/-- Both functions of the unit are multiplication in GF(2^8) modulo 0x11B, computed by an independent reference
(40_gf_arithmetic.md R111). -/
def Obligations.UnitMultipliesInField : Prop :=
  (∀ a : Byte, xtime a = fieldMul a 0x02#8) ∧
  (∀ (a : Byte) (k : GConst), gmul a k = fieldMul a (BitVec.ofNat 8 k.toNat))

/-- The laws of the arithmetic (40_gf_arithmetic.md R113). -/
def Obligations.GaloisLaws : Prop :=
  (∀ a : Byte, a ^^^ a = 0x00#8) ∧ (∀ a : Byte, a ^^^ 0x00#8 = a) ∧
  (∀ a b : Byte, xtime a ^^^ xtime b = xtime (a ^^^ b)) ∧
  (∀ (a b : Byte) (k : GConst), gmul (a ^^^ b) k = gmul a k ^^^ gmul b k) ∧
  xtime 0x00#8 = 0x00#8 ∧ (∀ k : GConst, gmul 0x00#8 k = 0x00#8) ∧ (∀ a : Byte, gmul a .c1 = a) ∧
  (∀ k : GConst, gmul 0x01#8 k = BitVec.ofNat 8 k.toNat) ∧
  Function.Bijective xtime ∧ xtime 0x8d#8 = 0x01#8 ∧ (∀ k : GConst, Function.Bijective fun a => gmul a k)

/-- XTIME (40_gf_arithmetic.md R114): byte `0x70`; it completes in every state, writes `GFR` and `ERR` and nothing else. -/
def Obligations.XtimeCommand : Prop :=
  encode .xtime = 0x70#8 ∧
  (∀ s : State, exec .xtime s = .next { s with GFR := xtime s.GFA, ERR := 0x00#8 }) ∧
  (∀ s : State, s.GFA = 0x00#8 → exec .xtime s = .next { s with GFR := 0x00#8, ERR := 0x00#8 }) ∧
  (∀ s : State, s.GFA = 0x80#8 → exec .xtime s = .next { s with GFR := 0x1b#8, ERR := 0x00#8 }) ∧
  (∀ s : State, s.GFA = 0xff#8 → exec .xtime s = .next { s with GFR := 0xe5#8, ERR := 0x00#8 }) ∧
  (∀ s : State, s.GFA = 0x57#8 → exec .xtime s = .next { s with GFR := 0xae#8, ERR := 0x00#8 })

/-- GMUL (40_gf_arithmetic.md R115): bytes `0x80 + c`; with a constant of `GCONST` it writes `GFR` and `ERR`, with any other it reports
E_ARG and `GFR` keeps its value. -/
def Obligations.GmulCommand : Prop :=
  (∀ c, c < 16 → encode (.gmul c) = BitVec.ofNat 8 (0x80 + c)) ∧
  (∀ (s : State) (k : GConst), exec (.gmul k.toNat) s = .next { s with GFR := gmul s.GFA k, ERR := 0x00#8 }) ∧
  (∀ (s : State) (c : Nat), c ∉ [0x1, 0x2, 0x3, 0x9, 0xb, 0xd, 0xe] → exec (.gmul c) s = .next { s with ERR := 0x03#8 }) ∧
  (∀ s : State, exec (.gmul 0x1) s = .next { s with GFR := s.GFA, ERR := 0x00#8 }) ∧
  (∀ s : State, exec (.gmul 0x2) s = exec .xtime s) ∧
  (∀ (s : State) (k : GConst), s.GFA = 0x00#8 → exec (.gmul k.toNat) s = .next { s with GFR := 0x00#8, ERR := 0x00#8 }) ∧
  (∀ s : State, s.GFA = 0xd4#8 → exec (.gmul 0x2) s = .next { s with GFR := 0xb3#8, ERR := 0x00#8 }) ∧
  (∀ s : State, s.GFA = 0xbf#8 → exec (.gmul 0x3) s = .next { s with GFR := 0xda#8, ERR := 0x00#8 })

/-- The frame of the Galois-field commands (40_gf_arithmetic.md R114, R115, R116): only `GFR` and `ERR` can change, and every address other
than those of `GFR`, `ERR` and `STATUS` reads as before. They store nothing else. -/
def Obligations.GaloisCommandsFrame : Prop :=
  ∀ (i : Instr) (s t : State), (i = .xtime ∨ ∃ c, i = .gmul c) → exec i s = .next t →
    t = { s with GFR := t.GFR, ERR := t.ERR } ∧
    (∀ a : Addr, locate a ≠ .gfr → (locate a).isErr = false → hostRead t a = hostRead s a)

/-! ## Round transforms -/

/-- SUBBYTES (41_round_transforms.md R130, R131): byte `0x30`; it completes in every state; each byte is replaced through `SBOX`, none stays as
it was, and nothing but `S` and `ERR` changes. -/
def Obligations.SubbytesCommand : Prop :=
  encode .subbytes = 0x30#8 ∧
  (∀ s : State, ∃ m, exec .subbytes s = .next { s with S := m, ERR := 0x00#8 } ∧
    (∀ r c, blockAt m r c = SBOX (blockAt s.S r c)) ∧ (∀ r c, blockAt m r c ≠ blockAt s.S r c)) ∧
  (∀ s : State, s.S = constBlock 0x00#8 → exec .subbytes s = .next { s with S := constBlock 0x63#8, ERR := 0x00#8 }) ∧
  (∀ s : State, s.S = constBlock 0xff#8 → exec .subbytes s = .next { s with S := constBlock 0x16#8, ERR := 0x00#8 }) ∧
  (∀ s : State, s.S = hexBlock 0x00112233445566778899aabbccddeeff →
    exec .subbytes s = .next { s with S := hexBlock 0x638293c31bfc33f5c4eeacea4bc12816, ERR := 0x00#8 })

/-- INVSUBBYTES (41_round_transforms.md R132, R133). -/
def Obligations.InvsubbytesCommand : Prop :=
  encode .invsubbytes = 0x31#8 ∧
  (∀ s : State, ∃ m, exec .invsubbytes s = .next { s with S := m, ERR := 0x00#8 } ∧
    (∀ r c, blockAt m r c = INVSBOX (blockAt s.S r c))) ∧
  (∀ s : State, s.S = constBlock 0x00#8 → exec .invsubbytes s = .next { s with S := constBlock 0x52#8, ERR := 0x00#8 }) ∧
  (∀ s : State, s.S = constBlock 0xff#8 → exec .invsubbytes s = .next { s with S := constBlock 0x7d#8, ERR := 0x00#8 }) ∧
  (∀ s : State, s.S = hexBlock 0x638293c31bfc33f5c4eeacea4bc12816 →
    exec .invsubbytes s = .next { s with S := hexBlock 0x00112233445566778899aabbccddeeff, ERR := 0x00#8 }) ∧
  (∀ s : State, s.S = hexBlock 0x00112233445566778899aabbccddeeff →
    exec .invsubbytes s = .next { s with S := hexBlock 0x52e3946686edd30297f962fe27c9997d, ERR := 0x00#8 })

/-- SHIFTROWS (41_round_transforms.md R134, R135): row `r` rotated left by `r`, in both views; equal columns stay; four in a row restore the
state. -/
def Obligations.ShiftrowsCommand : Prop :=
  encode .shiftrows = 0x40#8 ∧
  (∀ s : State, ∃ m, exec .shiftrows s = .next { s with S := m, ERR := 0x00#8 } ∧
    (∀ r c : Fin 4, blockAt m r c = blockAt s.S r (Fin.ofNat 4 (c.val + r.val))) ∧
    (∀ i : Fin 16, blockByte m i = blockByte s.S (Fin.ofNat 16 (i.val + 4 * (i.val % 4))))) ∧
  (∀ s : State, (∀ c, s.S.col c = s.S.col 0) → exec .shiftrows s = .next { s with ERR := 0x00#8 }) ∧
  (∀ s : State, execList [.shiftrows, .shiftrows, .shiftrows, .shiftrows] s = .next { s with ERR := 0x00#8 }) ∧
  (∀ s : State, s.S = hexBlock 0x00112233445566778899aabbccddeeff →
    exec .shiftrows s = .next { s with S := hexBlock 0x0055aaff4499ee3388dd2277cc1166bb, ERR := 0x00#8 }) ∧
  (∀ s : State, s.S = hexBlock 0x000102030405060708090a0b0c0d0e0f →
    exec .shiftrows s = .next { s with S := hexBlock 0x00050a0f04090e03080d02070c01060b, ERR := 0x00#8 })

/-- INVSHIFTROWS (41_round_transforms.md R136, R137): row `r` rotated right by `r`, in both views; it equals three SHIFTROWS; row 2 moves as under
SHIFTROWS; equal columns stay; four in a row restore the state. -/
def Obligations.InvshiftrowsCommand : Prop :=
  encode .invshiftrows = 0x41#8 ∧
  (∀ s : State, ∃ m, exec .invshiftrows s = .next { s with S := m, ERR := 0x00#8 } ∧
    (∀ r c : Fin 4, blockAt m r c = blockAt s.S r (Fin.ofNat 4 (c.val + 4 - r.val))) ∧
    (∀ i : Fin 16, blockByte m i = blockByte s.S (Fin.ofNat 16 (i.val + 16 - 4 * (i.val % 4)))) ∧
    (∀ c : Fin 4, blockAt m 2 c = blockAt (shiftRows s.S) 2 c)) ∧
  (∀ s : State, (∀ c, s.S.col c = s.S.col 0) → exec .invshiftrows s = .next { s with ERR := 0x00#8 }) ∧
  (∀ s : State, execList [.invshiftrows, .invshiftrows, .invshiftrows, .invshiftrows] s = .next { s with ERR := 0x00#8 }) ∧
  (∀ s : State, exec .invshiftrows s = execList [.shiftrows, .shiftrows, .shiftrows] s) ∧
  (∀ s : State, s.S = hexBlock 0x00112233445566778899aabbccddeeff →
    exec .invshiftrows s = .next { s with S := hexBlock 0x00ddaa774411eebb885522ffcc996633, ERR := 0x00#8 }) ∧
  (∀ s : State, s.S = hexBlock 0x0055aaff4499ee3388dd2277cc1166bb →
    exec .invshiftrows s = .next { s with S := hexBlock 0x00112233445566778899aabbccddeeff, ERR := 0x00#8 })

/-- MIXCOLUMNS (41_round_transforms.md R138, R139): every column multiplied by the fixed matrix over GF(2^8), the matrix on the left and the
multiplication by an independent reference; a column of four equal bytes stays. -/
def Obligations.MixcolumnsCommand : Prop :=
  encode .mixcolumns = 0x50#8 ∧
  (∀ s : State, ∃ m, exec .mixcolumns s = .next { s with S := m, ERR := 0x00#8 } ∧
    (∀ r c : Fin 4, blockAt m r c = matrixTimes mixMatrix (fun k => blockAt s.S k c) r) ∧
    (∀ c : Fin 4, (∀ r, blockAt s.S r c = blockAt s.S 0 c) → m.col c = s.S.col c)) ∧
  (∀ s : State, s.S = hexBlock 0x01000000000000000000000000000000 →
    exec .mixcolumns s = .next { s with S := hexBlock 0x02010103000000000000000000000000, ERR := 0x00#8 }) ∧
  (∀ s : State, s.S = hexBlock 0xd4bf5d30e0b452aeb84111f11e2798e5 →
    exec .mixcolumns s = .next { s with S := hexBlock 0x046681e5e0cb199a48f8d37a2806264c, ERR := 0x00#8 }) ∧
  (∀ s : State, s.S = hexBlock 0x00112233445566778899aabbccddeeff →
    exec .mixcolumns s = .next { s with S := hexBlock 0x2277005566334411aaff88ddeebbcc99, ERR := 0x00#8 })

/-- INVMIXCOLUMNS (41_round_transforms.md R140, R141). -/
def Obligations.InvmixcolumnsCommand : Prop :=
  encode .invmixcolumns = 0x51#8 ∧
  (∀ s : State, ∃ m, exec .invmixcolumns s = .next { s with S := m, ERR := 0x00#8 } ∧
    (∀ r c : Fin 4, blockAt m r c = matrixTimes invMixMatrix (fun k => blockAt s.S k c) r) ∧
    (∀ c : Fin 4, (∀ r, blockAt s.S r c = blockAt s.S 0 c) → m.col c = s.S.col c)) ∧
  (∀ s : State, s.S = hexBlock 0x01000000000000000000000000000000 →
    exec .invmixcolumns s = .next { s with S := hexBlock 0x0e090d0b000000000000000000000000, ERR := 0x00#8 }) ∧
  (∀ s : State, s.S = hexBlock 0x046681e5e0cb199a48f8d37a2806264c →
    exec .invmixcolumns s = .next { s with S := hexBlock 0xd4bf5d30e0b452aeb84111f11e2798e5, ERR := 0x00#8 }) ∧
  (∀ s : State, s.S = hexBlock 0x00112233445566778899aabbccddeeff →
    exec .invmixcolumns s = .next { s with S := hexBlock 0xaaff88ddeebbcc992277005566334411, ERR := 0x00#8 })

/-- ADDROUNDKEY (41_round_transforms.md R142, R143): E_NOKEY first, then E_ARG, else the XOR of the sixteen bytes; 15 always fails (in every state that meets
the invariant R27); twice restores `S`; the worked example. -/
def Obligations.AddroundkeyCommand : Prop :=
  (∀ n, n < 16 → encode (.addroundkey n) = BitVec.ofNat 8 (0x60 + n)) ∧
  (∀ (s : State) (n : Nat), s.RKV = false → exec (.addroundkey n) s = .next { s with ERR := 0x04#8 }) ∧
  (∀ (s : State) (n : Nat), s.RKV = true → nrOf s.KLEN < n → exec (.addroundkey n) s = .next { s with ERR := 0x03#8 }) ∧
  (∀ s : State, ScheduleCurrent s → s.RKV = true → exec (.addroundkey 15) s = .next { s with ERR := 0x03#8 }) ∧
  (∀ (s : State) (n : Fin 15), s.RKV = true → n.val ≤ nrOf s.KLEN →
    ∃ m, exec (.addroundkey n.val) s = .next { s with S := m, ERR := 0x00#8 } ∧
      (∀ i : Fin 16, blockByte m i = blockByte s.S i ^^^ blockByte s.RK[n] i) ∧
      (s.RK[n] = constBlock 0x00#8 → m = s.S) ∧
      execList [.addroundkey n.val, .addroundkey n.val] s = .next { s with ERR := 0x00#8 }) ∧
  (∀ s : State, s.KLEN = 16#8 → s.KEY = hexKey 0x000102030405060708090a0b0c0d0e0f00000000000000000000000000000000 →
    s.S = hexBlock 0x00112233445566778899aabbccddeeff →
    ∃ t, execList [.keyexpand, .addroundkey 0] s = .next t ∧ t.S = hexBlock 0x00102030405060708090a0b0c0d0e0f0)

/-- The inverse laws, the two pairs that commute, and that no other pair of the forward transforms commutes in general
(41_round_transforms.md R145). -/
def Obligations.TransformInverseLaws : Prop :=
  (∀ m, invSubBytes (subBytes m) = m) ∧ (∀ m, subBytes (invSubBytes m) = m) ∧
  (∀ m, invShiftRows (shiftRows m) = m) ∧ (∀ m, shiftRows (invShiftRows m) = m) ∧
  (∀ m, invMixColumns (mixColumns m) = m) ∧ (∀ m, mixColumns (invMixColumns m) = m) ∧
  (∀ m k, addRoundKey (addRoundKey m k) k = m) ∧
  (∀ m, shiftRows (subBytes m) = subBytes (shiftRows m)) ∧
  (∀ m, invShiftRows (invSubBytes m) = invSubBytes (invShiftRows m)) ∧
  (∃ m, mixColumns (subBytes m) ≠ subBytes (mixColumns m)) ∧ (∃ m, mixColumns (shiftRows m) ≠ shiftRows (mixColumns m)) ∧
  (∃ m k, addRoundKey (subBytes m) k ≠ subBytes (addRoundKey m k)) ∧
  (∃ m k, addRoundKey (shiftRows m) k ≠ shiftRows (addRoundKey m k)) ∧
  (∃ m k, addRoundKey (mixColumns m) k ≠ mixColumns (addRoundKey m k))

/-- The lanes of the transforms (41_round_transforms.md R146): sixteen independent bytes, four independent rows whose bytes keep their values, four
independent columns. -/
def Obligations.TransformLanes : Prop :=
  (∀ (m n k : Block) (i : Fin 16), blockByte m i = blockByte n i →
    blockByte (subBytes m) i = blockByte (subBytes n) i ∧ blockByte (invSubBytes m) i = blockByte (invSubBytes n) i ∧
    blockByte (addRoundKey m k) i = blockByte (addRoundKey n k) i) ∧
  (∀ (m n : Block) (r : Fin 4), (∀ c, blockAt m r c = blockAt n r c) →
    ∀ c, blockAt (shiftRows m) r c = blockAt (shiftRows n) r c ∧ blockAt (invShiftRows m) r c = blockAt (invShiftRows n) r c) ∧
  (∀ (m : Block) (r : Fin 4) (v : Byte),
    ((List.finRange 4).map (blockAt (shiftRows m) r)).count v = ((List.finRange 4).map (blockAt m r)).count v ∧
    ((List.finRange 4).map (blockAt (invShiftRows m) r)).count v = ((List.finRange 4).map (blockAt m r)).count v) ∧
  (∀ (m n : Block) (c : Fin 4), m.col c = n.col c →
    (mixColumns m).col c = (mixColumns n).col c ∧ (invMixColumns m).col c = (invMixColumns n).col c)

/-- What the seven transform commands read and write (41_round_transforms.md R147): the six other than ADDROUNDKEY complete in every state, with a
result that is a function of `S` alone; ADDROUNDKEY reads `S`, `RK`, `RKV` and `KLEN` only. The frame of all seven: nothing but `S` and
`ERR` changes, and every address outside the windows of `S`, `ERR` and `STATUS` reads as before. -/
def Obligations.TransformCommandsFrame : Prop :=
  (∀ i ∈ [Instr.subbytes, .invsubbytes, .shiftrows, .invshiftrows, .mixcolumns, .invmixcolumns],
    ∃ f : Block → Block, ∀ s : State, exec i s = .next { s with S := f s.S, ERR := 0x00#8 }) ∧
  (∀ n, ∃ f : Block → Vector Block 15 → Bool → Byte → Block × Byte, ∀ s : State,
    exec (.addroundkey n) s = .next { s with S := (f s.S s.RK s.RKV s.KLEN).1, ERR := (f s.S s.RK s.RKV s.KLEN).2 }) ∧
  (∀ (i : Instr) (s t : State),
    (i ∈ [Instr.subbytes, .invsubbytes, .shiftrows, .invshiftrows, .mixcolumns, .invmixcolumns] ∨ ∃ n, i = .addroundkey n) →
    exec i s = .next t →
    t = { s with S := t.S, ERR := t.ERR } ∧
    (∀ a : Addr, (locate a).isState = false → (locate a).isErr = false → hostRead t a = hostRead s a))

/-! ## Key schedule -/

/-- The number of words and the first words of a key expansion (42_key_schedule.md R160, R163): 44, 52 or 60 words, the first `Nk` of them the
columns of the key, row 0 first. -/
def Obligations.KeyExpansionStart : Prop :=
  ∀ (key : Vector Byte 32) (nk : Nat), nk ∈ [4, 6, 8] →
    (nk, (keyExpansion key nk).length) ∈ [(4, 44), (6, 52), (8, 60)] ∧
    (∀ i : Fin 8, i.val < nk →
      wordAt (keyExpansion key nk) i.val = ⟨key[4 * i.val], key[4 * i.val + 1], key[4 * i.val + 2], key[4 * i.val + 3]⟩)

/-- The recurrence of the key expansion (42_key_schedule.md R161, R162, R164): every later word is the word `Nk` places back XORed with `temp`, which
is rotated, substituted and given its round constant at multiples of `Nk`, substituted only at `i mod 8 = 4` for `Nk = 8`, and else is
the word before. -/
def Obligations.KeyExpansionRecurrence : Prop :=
  (∀ w : Word, subWord w = ⟨SBOX w.a0, SBOX w.a1, SBOX w.a2, SBOX w.a3⟩) ∧
  (∀ w : Word, rotWord w = ⟨w.a1, w.a2, w.a3, w.a0⟩) ∧
  (∀ (key : Vector Byte 32) (nk i : Nat), nk ∈ [4, 6, 8] → nk ≤ i → i < 4 * (nk + 6 + 1) →
    let w := wordAt (keyExpansion key nk)
    let prev := w (i - 1)
    let temp : Word :=
      if i % nk = 0 then
        ⟨SBOX prev.a1 ^^^ RCON (i / nk - 1), SBOX prev.a2, SBOX prev.a3, SBOX prev.a0⟩
      else if nk = 8 ∧ i % nk = 4 then ⟨SBOX prev.a0, SBOX prev.a1, SBOX prev.a2, SBOX prev.a3⟩
      else prev
    w i = ⟨(w (i - nk)).a0 ^^^ temp.a0, (w (i - nk)).a1 ^^^ temp.a1, (w (i - nk)).a2 ^^^ temp.a2, (w (i - nk)).a3 ^^^ temp.a3⟩)

/-- How the words lie in the round-key store after KEYEXPAND (42_key_schedule.md R165, 10_state.md R25): `W[j] = w[j]`, and byte `4c + r` of round
key `n` is row `r` of word `4n + c`. The first round keys (R169): round key 0 is the first 16 bytes of the key; for `Nk = 6` round key 1
begins with the last 8 key bytes; for `Nk = 8` it is the second half of the key; 11, 13 or 15 round keys are counted by `RKCNT`. -/
def Obligations.RoundKeyLayout : Prop :=
  ∀ s : State, klenLegal s.KLEN = true →
    ∃ t, exec .keyexpand s = .next t ∧
      (∀ j : Fin 60, j.val < 4 * (nrOf s.KLEN + 1) →
        storeWord t.RK j = wordAt (keyExpansion s.KEY (nkOf s.KLEN)) j.val) ∧
      (∀ (n : Fin 15) (c r : Fin 4), n.val ≤ nrOf s.KLEN →
        blockByte t.RK[n] (seqIndex r c) = (wordAt (keyExpansion s.KEY (nkOf s.KLEN)) (4 * n.val + c.val)).get r) ∧
      (∀ j : Fin 60, storeWord t.RK j =
        ⟨blockByte (t.RK[j.val / 4]'(by have := j.isLt; omega)) (Fin.ofNat 16 (4 * (j.val % 4))),
         blockByte (t.RK[j.val / 4]'(by have := j.isLt; omega)) (Fin.ofNat 16 (4 * (j.val % 4) + 1)),
         blockByte (t.RK[j.val / 4]'(by have := j.isLt; omega)) (Fin.ofNat 16 (4 * (j.val % 4) + 2)),
         blockByte (t.RK[j.val / 4]'(by have := j.isLt; omega)) (Fin.ofNat 16 (4 * (j.val % 4) + 3))⟩) ∧
      (∀ i : Fin 16, blockByte t.RK[0] i = s.KEY[i.val]) ∧
      (s.KLEN = 24#8 → ∀ i : Fin 16, i.val < 8 → blockByte t.RK[1] i = s.KEY[16 + i.val]) ∧
      (s.KLEN = 32#8 → ∀ i : Fin 16, blockByte t.RK[1] i = s.KEY[16 + i.val]) ∧
      (s.KLEN.toNat, (hostRead t 0x065#9).toNat) ∈ [(16, 11), (24, 13), (32, 15)]

/-- KEYEXPAND (42_key_schedule.md R167): byte `0x20`; with a legal key length the schedule goes into `RK[0..Nr]`, `RKV` is set and nothing else changes;
otherwise E_KEYLEN and nothing else, and then `RKV` was 0 already (for a state that meets the invariant R27); its corner cases and its
example. -/
def Obligations.KeyexpandCommand : Prop :=
  encode .keyexpand = 0x20#8 ∧
  (∀ s : State, klenLegal s.KLEN = true →
    ∃ rk, exec .keyexpand s = .next { s with RK := rk, RKV := true, ERR := 0x00#8 } ∧
      (∀ (n : Fin 15) (i : Fin 16), n.val ≤ nrOf s.KLEN →
        blockByte rk[n] i = (wordAt (keyExpansion s.KEY (nkOf s.KLEN)) (4 * n.val + i.val / 4)).get (Fin.ofNat 4 i.val)) ∧
      (∀ n : Fin 15, nrOf s.KLEN < n.val → rk[n] = s.RK[n])) ∧
  (∀ s : State, klenLegal s.KLEN = false → exec .keyexpand s = .next { s with ERR := 0x01#8 }) ∧
  (∀ s : State, ScheduleCurrent s → klenLegal s.KLEN = false → s.RKV = false) ∧
  (∀ s : State, ScheduleCurrent s → s.RKV = true → exec .keyexpand s = .next { s with ERR := 0x00#8 }) ∧
  (∀ s t : State, klenLegal s.KLEN = true → exec .keyexpand s = .next t → (hostRead t 0x065#9).toNat = nrOf s.KLEN + 1) ∧
  exec .keyexpand State.reset = .next { State.reset with ERR := 0x01#8 } ∧
  (∀ s : State, s.KLEN = 16#8 → s.KEY = hexKey 0 →
    ∃ t, exec .keyexpand s = .next t ∧ t.RK[1] = hexBlock 0x62636363626363636263636362636363) ∧
  (∀ s : State, s.KLEN = 16#8 → s.KEY = hexKey 0x000102030405060708090a0b0c0d0e0f00000000000000000000000000000000 →
    ∃ t, exec .keyexpand s = .next t ∧ t.ERR = 0x00#8 ∧ hostRead t 0x065#9 = 0x0B#8 ∧
      t.RK[1] = hexBlock 0xd6aa74fdd2af72fadaa678f1d6ab76fe ∧ t.RK[10] = hexBlock 0x13111d7fe3944a17f307a78b4d2b30c5)

/-- Only `KEY[0..KLEN-1]` enters the expansion (42_key_schedule.md R170): two states that agree there and in everything but `KEY` get the same `S`,
schedule, flag and error code from KEYEXPAND, CIPHER and DECIPHER; and a write of a key byte, used or not, clears `RKV`. -/
def Obligations.UnusedKeyBytesIgnored : Prop :=
  (∀ (s t : State) (i : Instr), SameUsedKey s t → i ∈ [Instr.keyexpand, .cipher, .decipher] →
    ∃ s' t', exec i s = .next s' ∧ exec i t = .next t' ∧
      s'.S = t'.S ∧ s'.RK = t'.RK ∧ s'.RKV = t'.RKV ∧ s'.ERR = t'.ERR) ∧
  (∀ (s : State) (i : Fin 32) (v : Byte), ∃ t, hostWrite (BitVec.ofNat 9 (0x020 + i.val)) v s = .next t ∧ t.RKV = false)

/-! ## Cipher and decipher -/

/-- The encryption of a block (43_cipher_decipher.md R180, R181): for any sequence of blocks that starts with round key 0 added and goes through the
middle rounds SubBytes, ShiftRows, MixColumns, AddRoundKey in increasing order, the result is the final round without MixColumns. -/
def Obligations.CipherRounds : Prop :=
  ∀ (p : Block) (key : Vector Byte 32) (nk : Nat) (st : Nat → Block), nk ∈ [4, 6, 8] →
    st 0 = addRoundKey p (roundKeyOf (keyExpansion key nk) 0) →
    (∀ round, 1 ≤ round → round ≤ nk + 6 - 1 →
      st round = addRoundKey (mixColumns (shiftRows (subBytes (st (round - 1))))) (roundKeyOf (keyExpansion key nk) round)) →
    cipher p key nk =
      addRoundKey (shiftRows (subBytes (st (nk + 6 - 1)))) (roundKeyOf (keyExpansion key nk) (nk + 6))

/-- The decryption of a block (43_cipher_decipher.md R183, R185): the same round keys in decreasing order, unmodified, and in each middle round
AddRoundKey, InvMixColumns, InvShiftRows, InvSubBytes in this order. -/
def Obligations.DecipherRounds : Prop :=
  ∀ (q : Block) (key : Vector Byte 32) (nk : Nat) (st : Nat → Block), nk ∈ [4, 6, 8] →
    st (nk + 6) = invSubBytes (invShiftRows (addRoundKey q (roundKeyOf (keyExpansion key nk) (nk + 6)))) →
    (∀ round, 1 ≤ round → round ≤ nk + 6 - 1 →
      st round = invSubBytes (invShiftRows (invMixColumns (addRoundKey (st (round + 1)) (roundKeyOf (keyExpansion key nk) round))))) →
    decipher q key nk = addRoundKey (st 1) (roundKeyOf (keyExpansion key nk) 0)

/-- CIPHER (43_cipher_decipher.md R182): byte `0x10`; with a legal key length `S` becomes the encryption of `S`, `RK[0..Nr]` the round keys, `RKV` is
cleared and nothing else changes; otherwise E_KEYLEN and `S` untouched; the result depends neither on `RKV` nor on the old `RK`, nor on
`KEY[KLEN..31]`; the known-answer vector. What the hidden `RK` holds afterwards (the schedule in `RK[0..Nr]`, the entries beyond kept) is the
model's choice, log entry 3: R182 calls it "left unobservable". -/
def Obligations.CipherCommand : Prop :=
  encode .cipher = 0x10#8 ∧
  (∀ s : State, klenLegal s.KLEN = true →
    ∃ rk, exec .cipher s = .next { s with S := cipher s.S s.KEY (nkOf s.KLEN), RK := rk, RKV := false, ERR := 0x00#8 } ∧
      (∀ n : Fin 15, n.val ≤ nrOf s.KLEN → rk[n] = roundKeyOf (keyExpansion s.KEY (nkOf s.KLEN)) n.val) ∧
      (∀ n : Fin 15, nrOf s.KLEN < n.val → rk[n] = s.RK[n])) ∧
  (∀ s : State, klenLegal s.KLEN = false → exec .cipher s = .next { s with ERR := 0x01#8 }) ∧
  (∀ (s : State) (rk : Vector Block 15) (v : Bool), ∃ t u, exec .cipher s = .next t ∧ exec .cipher { s with RK := rk, RKV := v } = .next u ∧
    t.S = u.S ∧ t.ERR = u.ERR) ∧
  (∀ s t : State, SameUsedKey s t → ∃ s' t', exec .cipher s = .next s' ∧ exec .cipher t = .next t' ∧ s'.S = t'.S) ∧
  (∀ s : State, klenLegal s.KLEN = true → ∃ t, execList [.cipher, .cipher] s = .next t ∧
    t.S = cipher (cipher s.S s.KEY (nkOf s.KLEN)) s.KEY (nkOf s.KLEN)) ∧
  (∀ s : State, s.KLEN = 16#8 → s.KEY = hexKey 0x000102030405060708090a0b0c0d0e0f00000000000000000000000000000000 →
    s.S = hexBlock 0x00112233445566778899aabbccddeeff →
    ∃ t, exec .cipher s = .next t ∧ t.ERR = 0x00#8 ∧ t.S = hexBlock 0x69c4e0d86a7b0430d8cdb78070b4c55a)

/-- DECIPHER (43_cipher_decipher.md R184): as CIPHER, with the decryption of `S`. What the hidden `RK` holds afterwards (the schedule in
`RK[0..Nr]`, the entries beyond kept) is the model's choice, log entry 3: R184 calls it "left unobservable". -/
def Obligations.DecipherCommand : Prop :=
  encode .decipher = 0x11#8 ∧
  (∀ s : State, klenLegal s.KLEN = true →
    ∃ rk, exec .decipher s = .next { s with S := decipher s.S s.KEY (nkOf s.KLEN), RK := rk, RKV := false, ERR := 0x00#8 } ∧
      (∀ n : Fin 15, n.val ≤ nrOf s.KLEN → rk[n] = roundKeyOf (keyExpansion s.KEY (nkOf s.KLEN)) n.val) ∧
      (∀ n : Fin 15, nrOf s.KLEN < n.val → rk[n] = s.RK[n])) ∧
  (∀ s : State, klenLegal s.KLEN = false → exec .decipher s = .next { s with ERR := 0x01#8 }) ∧
  (∀ (s : State) (rk : Vector Block 15) (v : Bool), ∃ t u, exec .decipher s = .next t ∧ exec .decipher { s with RK := rk, RKV := v } = .next u ∧
    t.S = u.S ∧ t.ERR = u.ERR) ∧
  (∀ s t : State, SameUsedKey s t → ∃ s' t', exec .decipher s = .next s' ∧ exec .decipher t = .next t' ∧ s'.S = t'.S) ∧
  (∀ s : State, klenLegal s.KLEN = true → ∃ t, execList [.decipher, .decipher] s = .next t ∧
    t.S = decipher (decipher s.S s.KEY (nkOf s.KLEN)) s.KEY (nkOf s.KLEN)) ∧
  (∀ s : State, s.KLEN = 16#8 → s.KEY = hexKey 0x000102030405060708090a0b0c0d0e0f00000000000000000000000000000000 →
    s.S = hexBlock 0x69c4e0d86a7b0430d8cdb78070b4c55a →
    ∃ t, exec .decipher s = .next t ∧ t.ERR = 0x00#8 ∧ t.S = hexBlock 0x00112233445566778899aabbccddeeff)

/-- The round trip (43_cipher_decipher.md R186), as functions for every key and block, and as commands in every state with a legal key length, in
both orders. -/
def Obligations.CipherRoundTrip : Prop :=
  (∀ (p : Block) (key : Vector Byte 32) (nk : Nat), nk ∈ [4, 6, 8] →
    decipher (cipher p key nk) key nk = p ∧ cipher (decipher p key nk) key nk = p) ∧
  (∀ s : State, klenLegal s.KLEN = true →
    (∃ t, execList [.cipher, .decipher] s = .next t ∧ t.S = s.S) ∧
    (∃ t, execList [.decipher, .cipher] s = .next t ∧ t.S = s.S))

/-- CIPHER and DECIPHER equal their step commands (43_cipher_decipher.md R189): from the same state with a legal key length the two ways end in states
that differ only in `RKV`, 0 after the single command and 1 after the step sequence. -/
def Obligations.CipherEqualsStepCommands : Prop :=
  ∀ s : State, klenLegal s.KLEN = true →
    (∃ t, exec .cipher s = .next t ∧ t.RKV = false ∧
      execList (encryptCommands (nrOf s.KLEN)) s = .next { t with RKV := true }) ∧
    (∃ t, exec .decipher s = .next t ∧ t.RKV = false ∧
      execList (decryptCommands (nrOf s.KLEN)) s = .next { t with RKV := true })

/-- The ownership of the schedule (43_cipher_decipher.md R188): a successful CIPHER or DECIPHER computes its own, whatever `RKV` and `RK` held, and gives
it up: `RKV = 0`, `RKCNT` and the whole `RK` window read zero, and ADDROUNDKEY fails with E_NOKEY until a new KEYEXPAND. -/
def Obligations.ScheduleGivenUp : Prop :=
  ∀ (s : State) (i : Instr), klenLegal s.KLEN = true → i ∈ [Instr.cipher, .decipher] →
    (∀ (rk : Vector Block 15) (v : Bool), ∃ t u, exec i s = .next t ∧ exec i { s with RK := rk, RKV := v } = .next u ∧
      t.S = u.S ∧ t.RKV = u.RKV ∧ t.ERR = u.ERR) ∧
    ∃ t, exec i s = .next t ∧ t.RKV = false ∧ hostRead t 0x065#9 = 0x00#8 ∧
      (∀ (n : Fin 15) (j : Fin 16), hostRead t (BitVec.ofNat 9 (0x100 + 16 * n.val + j.val)) = 0x00#8) ∧
      (∀ n, exec (.addroundkey n) t = .next { t with ERR := 0x04#8 }) ∧
      (∃ u, exec .keyexpand t = .next u ∧ u.RKV = true)

/-- The frame of KEYEXPAND, CIPHER and DECIPHER (42_key_schedule.md R167, 43_cipher_decipher.md R182, R184): KEYEXPAND changes only `RK`, `RKV` and `ERR`, the
other two also `S`, and every address that does not show one of these reads as before. They store to no other byte. That CIPHER and DECIPHER
keep the hidden entries of `RK` beyond `Nr` is the model's choice, log entry 3. -/
def Obligations.ScheduleCommandsFrame : Prop :=
  (∀ s t : State, exec .keyexpand s = .next t →
    t = { s with RK := t.RK, RKV := t.RKV, ERR := t.ERR } ∧
    (∀ n : Fin 15, nrOf s.KLEN < n.val → t.RK[n] = s.RK[n]) ∧
    (∀ a : Addr, (locate a).isErr = false → (locate a).isSchedule = false → hostRead t a = hostRead s a)) ∧
  (∀ (i : Instr) (s t : State), i ∈ [Instr.cipher, .decipher] → exec i s = .next t →
    t = { s with S := t.S, RK := t.RK, RKV := t.RKV, ERR := t.ERR } ∧
    (∀ n : Fin 15, nrOf s.KLEN < n.val → t.RK[n] = s.RK[n]) ∧
    (∀ a : Addr, (locate a).isState = false → (locate a).isErr = false → (locate a).isSchedule = false →
      hostRead t a = hostRead s a))

/-- The checkpoints of the trace hook (43_cipher_decipher.md R190, 60_exceptions.md R216): those of CIPHER and DECIPHER start at the input
block, end at the output block, are one for the input and one for each of the `4*Nr` transforms (R181), and are `S` after each command of the
step-by-step sequence (95_test_vectors.md section 3); with a bad key length there are none. A step command has one, `S` after it, whether it
succeeds or fails; KEYEXPAND one or none; XTIME and GMUL none. That the input is a checkpoint, and which commands are step commands, is the
model's reading (log entry 7). -/
def Obligations.TraceCheckpoints : Prop :=
  (∀ (s : State) (i : Instr), klenLegal s.KLEN = true → i ∈ [Instr.cipher, .decipher] →
    ∃ t, exec i s = .next t ∧ (checkpoints i s).head? = some s.S ∧ (checkpoints i s).getLast? = some t.S ∧
      (checkpoints i s).length = 4 * nrOf s.KLEN + 1) ∧
  (∀ s : State, klenLegal s.KLEN = true →
    checkpoints .cipher s = blocksAfter (encryptCommands (nrOf s.KLEN)) s ∧
    checkpoints .decipher s = blocksAfter (decryptCommands (nrOf s.KLEN)) s) ∧
  (∀ s : State, klenLegal s.KLEN = false → checkpoints .cipher s = [] ∧ checkpoints .decipher s = []) ∧
  (∀ (s : State) (i : Instr),
    (i ∈ [Instr.subbytes, .invsubbytes, .shiftrows, .invshiftrows, .mixcolumns, .invmixcolumns] ∨ ∃ n, i = .addroundkey n) →
    ∃ t, exec i s = .next t ∧ checkpoints i s = [t.S]) ∧
  (∀ s : State, ∃ t, exec .keyexpand s = .next t ∧ (checkpoints .keyexpand s = [t.S] ∨ checkpoints .keyexpand s = [])) ∧
  (∀ s : State, checkpoints .xtime s = [] ∧ ∀ c, checkpoints (.gmul c) s = [])

/-- What the trace port presents (43_cipher_decipher.md R190, 60_exceptions.md R216, 95_test_vectors.md section 3): nothing when not
installed. Installed, at every checkpoint of CIPHER and DECIPHER, in their order, a label with `S` there, and beside it any round keys of
their schedule; after a step command that is traced one label with the 16 bytes of `S` or of a round key in `RK` with `RKV = 1`. The labels
and which round keys are shown are free (log entry 7): the statement holds whatever they are. -/
def Obligations.TracePortPresents : Prop :=
  (∀ (i : Instr) (s : State), tracePort false i s = []) ∧
  (∀ (i : Instr) (s : State), i ∈ [Instr.cipher, .decipher] → ∃ keys : Nat → List Snapshot,
    tracePort true i s = ((checkpoints i s).mapIdx fun k b =>
      (⟨Config.traceLabel (encode i) s.KLEN k 0, b⟩ : Snapshot) :: keys k).flatten ∧
    ∀ k, ∀ p ∈ keys k, ∃ n, n ≤ nrOf s.KLEN ∧ p.data = roundKeyOf (keyExpansion s.KEY (nkOf s.KLEN)) n) ∧
  (∀ (i : Instr) (s : State), i ∉ [Instr.cipher, .decipher] →
    (checkpoints i s = [] ∧ tracePort true i s = []) ∨
    ∃ t p, exec i s = .next t ∧ checkpoints i s = [t.S] ∧ tracePort true i s = [p] ∧
      p.label = Config.traceLabel (encode i) s.KLEN 0 0 ∧
      (p.data = t.S ∨ (t.RKV = true ∧ ∃ n : Fin 15, n.val ≤ nrOf t.KLEN ∧ p.data = t.RK[n])))

/-! ## Errors -/

/-- Every command ends in exactly one of two ways (60_exceptions.md R200, R201, R202): for every byte written to `CMD` in every state there is a next
state, with one of the five codes of R203 in `ERR`; if the code is not success, nothing else has changed. A plain write or read ends in no
error: it leaves `ERR` as it was. -/
def Obligations.ErrorsArePrecise : Prop :=
  (∀ (v : Byte) (s : State), ∃ t, hostWrite 0x061#9 v s = .next t ∧
    t.ERR ∈ [0x00#8, 0x01#8, 0x02#8, 0x03#8, 0x04#8] ∧ (t.ERR ≠ 0x00#8 → t = { s with ERR := t.ERR })) ∧
  (∀ (a : Addr) (v : Byte) (s t : State), a ≠ 0x061#9 → hostWrite a v s = .next t → t.ERR = s.ERR) ∧
  (∀ (s t : State) (a : Addr) (rest : List HostEvent), s.host = .read a :: rest → step s = .next t → t.ERR = s.ERR)

/-- The order of the checks and which error is reported (60_exceptions.md R204, R205, R208, R209), for every byte and every state that meets the
invariant of 10_state.md R27. The last clause: a command that fails no check executes and ends with `ERR = 0x00`. -/
def Obligations.OrderOfChecks : Prop :=
  ∀ (v : Byte) (s : State), ScheduleCurrent s →
    (decode v = .illegal → hostWrite 0x061#9 v s = .next { s with ERR := 0x02#8 }) ∧
    (∀ i, decode v = .command i →
      (i ∈ [Instr.cipher, .decipher, .keyexpand] → s.KLEN.toNat ∉ [16, 24, 32] →
        hostWrite 0x061#9 v s = .next { s with ERR := 0x01#8 }) ∧
      (∀ n, i = .addroundkey n → s.RKV = false → hostWrite 0x061#9 v s = .next { s with ERR := 0x04#8 }) ∧
      (∀ n, i = .addroundkey n → s.RKV = true → s.KLEN.toNat / 4 + 6 < n →
        hostWrite 0x061#9 v s = .next { s with ERR := 0x03#8 }) ∧
      (∀ c, i = .gmul c → c ∉ [0x1, 0x2, 0x3, 0x9, 0xb, 0xd, 0xe] →
        hostWrite 0x061#9 v s = .next { s with ERR := 0x03#8 }) ∧
      ((i ∈ [Instr.cipher, .decipher, .keyexpand] → s.KLEN.toNat ∈ [16, 24, 32]) →
        (∀ n, i = .addroundkey n → s.RKV = true ∧ n ≤ s.KLEN.toNat / 4 + 6) →
        (∀ c, i = .gmul c → c ∈ [0x1, 0x2, 0x3, 0x9, 0xb, 0xd, 0xe]) →
        hostWrite 0x061#9 v s = exec i s ∧ ∃ t, exec i s = .next t ∧ t.ERR = 0x00#8))

/-- `ERR` is not sticky (60_exceptions.md R211): what a command does, its error code included, does not depend on the code left by the command before. -/
def Obligations.ErrNotSticky : Prop :=
  ∀ (v e : Byte) (s : State), hostWrite 0x061#9 v { s with ERR := e } = hostWrite 0x061#9 v s

/-! ## Host port -/

/-- The address map (20_memory.md R63): what a read of every address returns and what a write to it does. Offsets are the spec's own: `SB[i]`
is `S[i mod 4][i div 4]`, `KM[r][c]` is `KEY[r + 4c]`. -/
def Obligations.AddressMap : Prop :=
  (∀ (s : State) (v : Byte) (i : Fin 16),
    hostRead s (BitVec.ofNat 9 i.val) = blockAt s.S (Fin.ofNat 4 i.val) (Fin.ofNat 4 (i.val / 4)) ∧
    hostWrite (BitVec.ofNat 9 i.val) v s =
      .next { s with S := blockOf fun r c => if r.val = i.val % 4 ∧ c.val = i.val / 4 then v else blockAt s.S r c }) ∧
  (∀ (s : State) (v : Byte) (r c : Fin 4),
    hostRead s (BitVec.ofNat 9 (0x010 + 4 * r.val + c.val)) = blockAt s.S r c ∧
    hostWrite (BitVec.ofNat 9 (0x010 + 4 * r.val + c.val)) v s =
      .next { s with S := blockOf fun r' c' => if r' = r ∧ c' = c then v else blockAt s.S r' c' }) ∧
  (∀ (s : State) (v : Byte) (i : Fin 32),
    hostRead s (BitVec.ofNat 9 (0x020 + i.val)) = s.KEY[i] ∧
    hostWrite (BitVec.ofNat 9 (0x020 + i.val)) v s = .next { s with KEY := s.KEY.set i v, RKV := false }) ∧
  (∀ (s : State) (v : Byte) (r : Fin 4) (c : Fin 8),
    hostRead s (BitVec.ofNat 9 (0x040 + 8 * r.val + c.val)) = s.KEY[Fin.ofNat 32 (r.val + 4 * c.val)] ∧
    hostWrite (BitVec.ofNat 9 (0x040 + 8 * r.val + c.val)) v s =
      .next { s with KEY := s.KEY.set (Fin.ofNat 32 (r.val + 4 * c.val)) v, RKV := false }) ∧
  (∀ (s : State) (v : Byte),
    hostRead s 0x060#9 = s.KLEN ∧ hostWrite 0x060#9 v s = .next { s with KLEN := v, RKV := false } ∧
    hostRead s 0x061#9 = 0x00#8 ∧ hostWrite 0x061#9 v s = runCommand v s ∧
    hostRead s 0x062#9 = s.ERR ∧ hostWrite 0x062#9 v s = .next s ∧
    hostRead s 0x063#9 = statusByte s ∧ hostWrite 0x063#9 v s = .next s ∧
    hostRead s 0x064#9 = paramByte s ∧ hostWrite 0x064#9 v s = .next s ∧
    hostRead s 0x065#9 = rkcntByte s ∧ hostWrite 0x065#9 v s = .next s ∧
    hostRead s 0x066#9 = s.GFA ∧ hostWrite 0x066#9 v s = .next { s with GFA := v } ∧
    hostRead s 0x067#9 = s.GFR ∧ hostWrite 0x067#9 v s = .next s) ∧
  (∀ (s : State) (v : Byte) (n : Fin 15) (i : Fin 16),
    hostRead s (BitVec.ofNat 9 (0x100 + 16 * n.val + i.val)) =
      (if s.RKV = true ∧ n.val ≤ nrOf s.KLEN then blockByte s.RK[n] i else 0x00#8) ∧
    hostWrite (BitVec.ofNat 9 (0x100 + 16 * n.val + i.val)) v s = .next s) ∧
  (∀ (s : State) (v : Byte) (a : Addr), (0x068 ≤ a.toNat ∧ a.toNat ≤ 0x0FF) ∨ 0x1F0 ≤ a.toNat →
    hostRead s a = 0x00#8 ∧ hostWrite a v s = .next s)

/-- Reads change nothing (20_memory.md R61): a read transaction returns the byte of the map and leaves every register as it was, so a second read of the
same address, and a read of any other, returns what it would have returned before. -/
def Obligations.ReadsChangeNothing : Prop :=
  ∀ (s : State) (a : Addr) (rest : List HostEvent), s.resetDone = true → s.host = .read a :: rest →
    ∃ t, step s = .next t ∧ t = { s with host := rest, reads := hostRead s a :: s.reads } ∧
      (∀ b : Addr, hostRead t b = hostRead s b)

/-- A block loads and reads back through the window `SB` (20_memory.md R64): sixteen writes to `0x000 + i` put `S[r][c] = b[r + 4c]`, and sixteen reads
in order give the block back, whatever the state before. -/
def Obligations.BlockThroughWindow : Prop :=
  ∀ (s : State) (b : Fin 16 → Byte) (rest : List HostEvent), s.resetDone = true →
    s.host = (List.finRange 16).map (fun i => HostEvent.write (BitVec.ofNat 9 i.val) (b i))
      ++ (List.finRange 16).map (fun i => HostEvent.read (BitVec.ofNat 9 i.val)) ++ rest →
    ∃ t u, Host.Core.run Sys2Proof.core 16 s = .next t ∧ (∀ r c : Fin 4, blockAt t.S r c = b (seqIndex r c)) ∧
      Host.Core.run Sys2Proof.core 16 t = .next u ∧ u.S = t.S ∧ u.host = rest ∧
      u.reads = ((List.finRange 16).map b).reverse ++ s.reads

/-- What is read after a data write (20_memory.md R62, R71, R78), for every address but `CMD`: the written byte reads as `v` through every address that reaches it,
every other byte reads as before, and after a write to `KEY` or `KLEN` the addresses that show the schedule are the only others that may
read differently (with `PARAM` for `KLEN`). Nothing but the written register and `RKV` changes. -/
def Obligations.HostWriteFrame : Prop :=
  ∀ (a : Addr) (v : Byte) (s : State), locate a ≠ .cmd → ∃ t, hostWrite a v s = .next t ∧
    t = { s with S := t.S, KEY := t.KEY, KLEN := t.KLEN, RKV := t.RKV, GFA := t.GFA } ∧
    ((locate a).cell ∈ [Location.err, .status, .param, .rkcnt, .gfr, .reserved] → t = s) ∧
    ((∃ n i, (locate a).cell = .rkb n i) → t = s) ∧
    (∀ i, (locate a).cell = .sb i → ∀ b : Addr, hostRead t b = if (locate b).cell = .sb i then v else hostRead s b) ∧
    ((locate a).cell = .gfa → ∀ b : Addr, hostRead t b = if (locate b).cell = .gfa then v else hostRead s b) ∧
    (∀ i, (locate a).cell = .key i → t.RKV = false ∧ ∀ b : Addr, (locate b).isSchedule = false →
      hostRead t b = if (locate b).cell = .key i then v else hostRead s b) ∧
    ((locate a).cell = .klen → t.RKV = false ∧ ∀ b : Addr, (locate b).isSchedule = false → (locate b).cell ≠ .param →
      hostRead t b = if (locate b).cell = .klen then v else hostRead s b)

/-- A write to any address of the windows `KEY` and `KM` or to `KLEN` clears `RKV`, whatever is written, and no other data write and no read touches it;
beside the register that is written, nothing else changes (20_memory.md R71). -/
def Obligations.KeyWritesClearSchedule : Prop :=
  (∀ (a : Addr) (v : Byte) (s t : State), 0x020 ≤ a.toNat → a.toNat ≤ 0x060 → hostWrite a v s = .next t →
    t.RKV = false ∧ t = { s with KEY := t.KEY, KLEN := t.KLEN, RKV := false }) ∧
  (∀ (a : Addr) (v : Byte) (s t : State), a.toNat < 0x020 ∨ 0x062 ≤ a.toNat → hostWrite a v s = .next t →
    t.RKV = s.RKV ∧ t = { s with S := t.S, GFA := t.GFA }) ∧
  (∀ (a : Addr) (v : Byte) (s : State), ∃ t, hostWrite a v s = .next t) ∧
  (∀ (s t : State) (a : Addr) (rest : List HostEvent), s.host = .read a :: rest → step s = .next t → t.RKV = s.RKV)

/-- The three derived registers, bit by bit (10_state.md R33, R34, R35), in every state; writes to them are ignored. -/
def Obligations.DerivedRegisters : Prop :=
  ∀ s : State,
    (hostRead s 0x063#9).getLsbD 0 = s.RKV ∧
    (hostRead s 0x063#9).getLsbD 1 = decide (s.KLEN.toNat ∈ [16, 24, 32]) ∧
    (hostRead s 0x063#9).getLsbD 2 = decide (s.ERR ≠ 0x00#8) ∧
    (∀ i, 3 ≤ i → (hostRead s 0x063#9).getLsbD i = false) ∧
    (s.KLEN.toNat ∈ [16, 24, 32] →
      (hostRead s 0x064#9).toNat % 16 = s.KLEN.toNat / 4 ∧ (hostRead s 0x064#9).toNat / 16 = s.KLEN.toNat / 4 + 6) ∧
    (s.KLEN.toNat ∉ [16, 24, 32] → hostRead s 0x064#9 = 0x00#8) ∧
    (s.KLEN = 16#8 → hostRead s 0x064#9 = 0xA4#8) ∧ (s.KLEN = 24#8 → hostRead s 0x064#9 = 0xC6#8) ∧
    (s.KLEN = 32#8 → hostRead s 0x064#9 = 0xE8#8) ∧
    (hostRead s 0x065#9).toNat = (if s.RKV = true then s.KLEN.toNat / 4 + 6 + 1 else 0) ∧
    (∀ v : Byte, hostWrite 0x063#9 v s = .next s ∧ hostWrite 0x064#9 v s = .next s ∧ hostWrite 0x065#9 v s = .next s)

/-- A step runs the decoded command (10_state.md R31, 20_memory.md R80): when the host's next event is a write of `v` to `CMD`, the step is `exec` of the command `v`
decodes to, at the state in which only that event has been taken. The second clause, that `withFetchWord` puts the core in that situation with
the first reset taken, is wholly the model's choice (log entries 1, 2 and 11), and so are the fields `host` and `resetDone` (1 and 2). -/
def Obligations.StepRunsDecodedCommand : Prop :=
  (∀ (s : State) (v : Byte) (i : Instr) (rest : List HostEvent), s.resetDone = true → s.host = .write 0x061#9 v :: rest →
    decode v = .command i → step s = exec i { s with host := rest }) ∧
  (∀ (s : State) (v : Byte) (i : Instr), decode v = .command i →
    step (s.withFetchWord 8 v.toNat) = exec i { s with resetDone := true })

/-- The other steps (20_memory.md R60, R78, 60_exceptions.md R215, 70_reset_and_hazards.md R230): events are taken one at a time in the host's order; a write acts as the map says;
with nothing pending the core holds all its state; before the first reset no transaction is served; and every step takes exactly one event
off the host's list and adds a byte to what it has read only for a read (the two lists are the model's own, log entry 1). -/
def Obligations.StepServesHostInOrder : Prop :=
  (∀ s : State, s.host = [] → step s = .next s) ∧
  (∀ (s : State) (a : Addr) (v : Byte) (rest : List HostEvent), s.resetDone = true → s.host = .write a v :: rest →
    step s = hostWrite a v { s with host := rest }) ∧
  (∀ (s : State) (e : HostEvent) (rest : List HostEvent), s.resetDone = false → s.host = e :: rest → e ≠ .reset →
    step s = .refused .transactionBeforeReset) ∧
  (∀ s t : State, step s = .next t → t.host = s.host.tail ∧
    (∀ a rest, s.host = .read a :: rest → t.reads = hostRead s a :: s.reads) ∧
    ((∀ a, s.host.head? ≠ some (.read a)) → t.reads = s.reads))

/-! ## State, reset and invariants -/

/-- The reset state (70_reset_and_hazards.md R231, 10_state.md R38): every register of the spec at its reset value, and the derived registers read zero. -/
def Obligations.ResetState : Prop :=
  (∀ r c, blockAt State.reset.S r c = 0x00#8) ∧ (∀ i : Fin 32, State.reset.KEY[i] = 0x00#8) ∧ State.reset.KLEN = 0x00#8 ∧
  (∀ (n : Fin 15) (i : Fin 16), blockByte State.reset.RK[n] i = 0x00#8) ∧ State.reset.RKV = false ∧
  State.reset.GFA = 0x00#8 ∧ State.reset.GFR = 0x00#8 ∧ State.reset.ERR = 0x00#8 ∧
  hostRead State.reset 0x063#9 = 0x00#8 ∧ hostRead State.reset 0x064#9 = 0x00#8 ∧ hostRead State.reset 0x065#9 = 0x00#8

/-- A reset event takes any state, before or after the first reset, to the reset state; what the host has pending and has read is the host's own and
stays (70_reset_and_hazards.md R230, R231; log entry 1). -/
def Obligations.ResetEvent : Prop :=
  ∀ (s : State) (rest : List HostEvent), s.host = .reset :: rest →
    step s = .next { State.reset with host := rest, reads := s.reads }

/-- Right after reset (60_exceptions.md R212, 70_reset_and_hazards.md R233): the commands that need a key length fail with E_KEYLEN, ADDROUNDKEY with E_NOKEY; the six other transforms, XTIME and
GMUL work; and with only `KLEN` written a CIPHER or DECIPHER runs on zeros. -/
def Obligations.AfterReset : Prop :=
  (∀ i ∈ [Instr.cipher, .decipher, .keyexpand], exec i State.reset = .next { State.reset with ERR := 0x01#8 }) ∧
  (∀ n, exec (.addroundkey n) State.reset = .next { State.reset with ERR := 0x04#8 }) ∧
  (∀ i ∈ [Instr.subbytes, .invsubbytes, .shiftrows, .invshiftrows, .mixcolumns, .invmixcolumns, .xtime],
    ∃ t, exec i State.reset = .next t ∧ t.ERR = 0x00#8) ∧
  (∀ k : GConst, ∃ t, exec (.gmul k.toNat) State.reset = .next t ∧ t.ERR = 0x00#8) ∧
  (∀ k : Byte, k.toNat ∈ [16, 24, 32] →
    (∃ t, exec .cipher { State.reset with KLEN := k } = .next t ∧ t.ERR = 0x00#8 ∧
      t.S = cipher (constBlock 0x00#8) (hexKey 0) (k.toNat / 4)) ∧
    (∃ t, exec .decipher { State.reset with KLEN := k } = .next t ∧ t.ERR = 0x00#8 ∧
      t.S = decipher (constBlock 0x00#8) (hexKey 0) (k.toNat / 4)))

/-- Who writes each register (10_state.md R38, column "Written by"): over all commands, over all data writes of the host. -/
def Obligations.WrittenByTable : Prop :=
  (∀ (i : Instr) (s t : State), exec i s = .next t →
    t.KEY = s.KEY ∧ t.KLEN = s.KLEN ∧ t.GFA = s.GFA ∧
    (t.S ≠ s.S → i ∈ [Instr.subbytes, .invsubbytes, .shiftrows, .invshiftrows, .mixcolumns, .invmixcolumns, .cipher, .decipher] ∨
      ∃ n, i = .addroundkey n) ∧
    (t.RK ≠ s.RK → i ∈ [Instr.keyexpand, .cipher, .decipher]) ∧
    (t.RKV ≠ s.RKV → (i = .keyexpand ∧ t.RKV = true) ∨ (i ∈ [Instr.cipher, .decipher] ∧ t.RKV = false)) ∧
    (t.GFR ≠ s.GFR → i = .xtime ∨ ∃ c, i = .gmul c)) ∧
  (∀ (a : Addr) (v : Byte) (s t : State), locate a ≠ .cmd → hostWrite a v s = .next t →
    t.RK = s.RK ∧ t.GFR = s.GFR ∧ t.ERR = s.ERR ∧ (t.RKV ≠ s.RKV → t.RKV = false))

/-- Only these events change `RKV` (10_state.md R26): it is set only by a KEYEXPAND, and cleared only by a write to `KEY` or `KLEN`, a CIPHER, a DECIPHER or a
reset. -/
def Obligations.OnlyTheseEventsChangeRkv : Prop :=
  (∀ s t : State, step s = .next t → s.RKV = false → t.RKV = true → s.host.head? = some (.write 0x061#9 0x20#8)) ∧
  (∀ s t : State, step s = .next t → s.RKV = true → t.RKV = false →
    s.host.head? = some .reset ∨ s.host.head? = some (.write 0x061#9 0x10#8) ∨ s.host.head? = some (.write 0x061#9 0x11#8) ∨
    ∃ (a : Addr) (v : Byte), s.host.head? = some (.write a v) ∧ 0x020 ≤ a.toNat ∧ a.toNat ≤ 0x060)

/-- The hidden state cannot be observed (10_state.md R39): two states that differ only in the hidden bytes of `RK` give the same byte at every address, and whatever
the host does next, they end in states that differ only there. -/
def Obligations.HiddenStateUnobservable : Prop :=
  ∀ s t : State, SameVisible s t →
    (∀ a : Addr, hostRead s a = hostRead t a) ∧
    (∀ s', step s = .next s' → ∃ t', step t = .next t' ∧ SameVisible s' t') ∧
    (∀ r, step s = .refused r → step t = .refused r)

/-- The invariant of 10_state.md R27, with the error code legal and a reset taken, is kept by every step from every state that meets it. -/
def Obligations.StepKeepsInvariant : Prop :=
  ∀ s t : State, Inv s → step s = .next t → Inv t

/-- The invariant holds right after reset, whatever the host is about to do. -/
def Obligations.InvariantAtReset : Prop :=
  ∀ script : List HostEvent, Inv { State.reset with host := script }

/-- No run from reset ever stops, whatever the host does, and every state on it meets the invariant (10_state.md R27; that nothing stops,
60_exceptions.md R200, and that any transaction may follow any, 70_reset_and_hazards.md R241). The host's list, of which a step takes one
event, and the flag of the first reset inside the invariant are the model's choice (log entries 1 and 2). -/
def Obligations.RunsNeverStop : Prop :=
  ∀ (script : List HostEvent) (k : Nat), ∃ t : State,
    (Host.Core.run Sys2Proof.core k { State.reset with host := script } : Host.Outcome State Fault Refusal) = .next t ∧
    Inv t ∧ t.host = script.drop k
end

