-- ==== Sys2Proof/Laws/Dispatch.lean ====
section
/-! SUPPORT. `exec` on each command is its meaning. -/

namespace Sys2Proof.Machine

@[simp] theorem exec_cipher (s : State) : exec .cipher s = execCipher s := rfl
@[simp] theorem exec_decipher (s : State) : exec .decipher s = execDecipher s := rfl
@[simp] theorem exec_keyexpand (s : State) : exec .keyexpand s = execKeyexpand s := rfl
@[simp] theorem exec_subbytes (s : State) : exec .subbytes s = execSubbytes s := rfl
@[simp] theorem exec_invsubbytes (s : State) : exec .invsubbytes s = execInvsubbytes s := rfl
@[simp] theorem exec_shiftrows (s : State) : exec .shiftrows s = execShiftrows s := rfl
@[simp] theorem exec_invshiftrows (s : State) : exec .invshiftrows s = execInvshiftrows s := rfl
@[simp] theorem exec_mixcolumns (s : State) : exec .mixcolumns s = execMixcolumns s := rfl
@[simp] theorem exec_invmixcolumns (s : State) : exec .invmixcolumns s = execInvmixcolumns s := rfl
@[simp] theorem exec_addroundkey (n : Nat) (s : State) : exec (.addroundkey n) s = execAddroundkey n s := rfl
@[simp] theorem exec_xtime (s : State) : exec .xtime s = execXtime s := rfl
@[simp] theorem exec_gmul (c : Nat) (s : State) : exec (.gmul c) s = execGmul c s := rfl

end Sys2Proof.Machine
end

