-- ==== Sys2Proof/Laws/Galois.lean ====
section
/-! SUPPORT. `gmul` by each constant, in terms of `xtime`. -/

namespace Sys2Proof.Machine

@[simp] theorem gmul_c1 (a : Byte) : gmul a .c1 = a := rfl
@[simp] theorem gmul_c2 (a : Byte) : gmul a .c2 = xtime a := rfl
@[simp] theorem gmul_c3 (a : Byte) : gmul a .c3 = xtime a ^^^ a := rfl
theorem gmul_c9 (a : Byte) : gmul a .c9 = xtime (xtime (xtime a)) ^^^ a := rfl
theorem gmul_cb (a : Byte) : gmul a .cb = xtime (xtime (xtime a)) ^^^ xtime a ^^^ a := rfl
theorem gmul_cd (a : Byte) : gmul a .cd = xtime (xtime (xtime a)) ^^^ xtime (xtime a) ^^^ a := rfl
theorem gmul_ce (a : Byte) : gmul a .ce = xtime (xtime (xtime a)) ^^^ xtime (xtime a) ^^^ xtime a := rfl

/-- Bit `i` of `xtime b`: bit `i - 1` of `b`, with `0x1B` folded in when bit 7 of `b` is set. -/
theorem getLsbD_xtime (b : Byte) (i : Nat) (hi : i < 8) :
    (xtime b).getLsbD i = ((decide (0 < i) && b.getLsbD (i - 1)) ^^ (b.getLsbD 7 && (0x1B#8).getLsbD i)) := by
  unfold xtime
  cases h : b.getLsbD 7 <;> rcases i with _ | i
  · simp
  · simp [hi, BitVec.getLsbD_eq_getElem (Nat.lt_of_succ_lt hi)]
  · simp
  · simp [hi, BitVec.getLsbD_eq_getElem (Nat.lt_of_succ_lt hi)]

end Sys2Proof.Machine
end

