-- ==== Sys2Proof/Laws/State.lean ====
section
/-! SUPPORT. One lemma per field per update of the state, each true by `rfl`, so that no later proof unfolds a record update. -/

namespace Sys2Proof.Machine

section
variable (s : State) (x : Block)
@[simp] theorem State.withS_S : (s.withS x).S = x := rfl
@[simp] theorem State.withS_KEY : (s.withS x).KEY = s.KEY := rfl
@[simp] theorem State.withS_KLEN : (s.withS x).KLEN = s.KLEN := rfl
@[simp] theorem State.withS_RK : (s.withS x).RK = s.RK := rfl
@[simp] theorem State.withS_RKV : (s.withS x).RKV = s.RKV := rfl
@[simp] theorem State.withS_GFA : (s.withS x).GFA = s.GFA := rfl
@[simp] theorem State.withS_GFR : (s.withS x).GFR = s.GFR := rfl
@[simp] theorem State.withS_ERR : (s.withS x).ERR = s.ERR := rfl
@[simp] theorem State.withS_resetDone : (s.withS x).resetDone = s.resetDone := rfl
@[simp] theorem State.withS_host : (s.withS x).host = s.host := rfl
@[simp] theorem State.withS_reads : (s.withS x).reads = s.reads := rfl
end

section
variable (s : State) (x : Vector Byte 32)
@[simp] theorem State.withKEY_S : (s.withKEY x).S = s.S := rfl
@[simp] theorem State.withKEY_KEY : (s.withKEY x).KEY = x := rfl
@[simp] theorem State.withKEY_KLEN : (s.withKEY x).KLEN = s.KLEN := rfl
@[simp] theorem State.withKEY_RK : (s.withKEY x).RK = s.RK := rfl
@[simp] theorem State.withKEY_RKV : (s.withKEY x).RKV = s.RKV := rfl
@[simp] theorem State.withKEY_GFA : (s.withKEY x).GFA = s.GFA := rfl
@[simp] theorem State.withKEY_GFR : (s.withKEY x).GFR = s.GFR := rfl
@[simp] theorem State.withKEY_ERR : (s.withKEY x).ERR = s.ERR := rfl
@[simp] theorem State.withKEY_resetDone : (s.withKEY x).resetDone = s.resetDone := rfl
@[simp] theorem State.withKEY_host : (s.withKEY x).host = s.host := rfl
@[simp] theorem State.withKEY_reads : (s.withKEY x).reads = s.reads := rfl
end

section
variable (s : State) (x : Byte)
@[simp] theorem State.withKLEN_S : (s.withKLEN x).S = s.S := rfl
@[simp] theorem State.withKLEN_KEY : (s.withKLEN x).KEY = s.KEY := rfl
@[simp] theorem State.withKLEN_KLEN : (s.withKLEN x).KLEN = x := rfl
@[simp] theorem State.withKLEN_RK : (s.withKLEN x).RK = s.RK := rfl
@[simp] theorem State.withKLEN_RKV : (s.withKLEN x).RKV = s.RKV := rfl
@[simp] theorem State.withKLEN_GFA : (s.withKLEN x).GFA = s.GFA := rfl
@[simp] theorem State.withKLEN_GFR : (s.withKLEN x).GFR = s.GFR := rfl
@[simp] theorem State.withKLEN_ERR : (s.withKLEN x).ERR = s.ERR := rfl
@[simp] theorem State.withKLEN_resetDone : (s.withKLEN x).resetDone = s.resetDone := rfl
@[simp] theorem State.withKLEN_host : (s.withKLEN x).host = s.host := rfl
@[simp] theorem State.withKLEN_reads : (s.withKLEN x).reads = s.reads := rfl
end

section
variable (s : State) (x : Vector Block 15)
@[simp] theorem State.withRK_S : (s.withRK x).S = s.S := rfl
@[simp] theorem State.withRK_KEY : (s.withRK x).KEY = s.KEY := rfl
@[simp] theorem State.withRK_KLEN : (s.withRK x).KLEN = s.KLEN := rfl
@[simp] theorem State.withRK_RK : (s.withRK x).RK = x := rfl
@[simp] theorem State.withRK_RKV : (s.withRK x).RKV = s.RKV := rfl
@[simp] theorem State.withRK_GFA : (s.withRK x).GFA = s.GFA := rfl
@[simp] theorem State.withRK_GFR : (s.withRK x).GFR = s.GFR := rfl
@[simp] theorem State.withRK_ERR : (s.withRK x).ERR = s.ERR := rfl
@[simp] theorem State.withRK_resetDone : (s.withRK x).resetDone = s.resetDone := rfl
@[simp] theorem State.withRK_host : (s.withRK x).host = s.host := rfl
@[simp] theorem State.withRK_reads : (s.withRK x).reads = s.reads := rfl
end

section
variable (s : State) (x : Bool)
@[simp] theorem State.withRKV_S : (s.withRKV x).S = s.S := rfl
@[simp] theorem State.withRKV_KEY : (s.withRKV x).KEY = s.KEY := rfl
@[simp] theorem State.withRKV_KLEN : (s.withRKV x).KLEN = s.KLEN := rfl
@[simp] theorem State.withRKV_RK : (s.withRKV x).RK = s.RK := rfl
@[simp] theorem State.withRKV_RKV : (s.withRKV x).RKV = x := rfl
@[simp] theorem State.withRKV_GFA : (s.withRKV x).GFA = s.GFA := rfl
@[simp] theorem State.withRKV_GFR : (s.withRKV x).GFR = s.GFR := rfl
@[simp] theorem State.withRKV_ERR : (s.withRKV x).ERR = s.ERR := rfl
@[simp] theorem State.withRKV_resetDone : (s.withRKV x).resetDone = s.resetDone := rfl
@[simp] theorem State.withRKV_host : (s.withRKV x).host = s.host := rfl
@[simp] theorem State.withRKV_reads : (s.withRKV x).reads = s.reads := rfl
end

section
variable (s : State) (x : Byte)
@[simp] theorem State.withGFA_S : (s.withGFA x).S = s.S := rfl
@[simp] theorem State.withGFA_KEY : (s.withGFA x).KEY = s.KEY := rfl
@[simp] theorem State.withGFA_KLEN : (s.withGFA x).KLEN = s.KLEN := rfl
@[simp] theorem State.withGFA_RK : (s.withGFA x).RK = s.RK := rfl
@[simp] theorem State.withGFA_RKV : (s.withGFA x).RKV = s.RKV := rfl
@[simp] theorem State.withGFA_GFA : (s.withGFA x).GFA = x := rfl
@[simp] theorem State.withGFA_GFR : (s.withGFA x).GFR = s.GFR := rfl
@[simp] theorem State.withGFA_ERR : (s.withGFA x).ERR = s.ERR := rfl
@[simp] theorem State.withGFA_resetDone : (s.withGFA x).resetDone = s.resetDone := rfl
@[simp] theorem State.withGFA_host : (s.withGFA x).host = s.host := rfl
@[simp] theorem State.withGFA_reads : (s.withGFA x).reads = s.reads := rfl
end

section
variable (s : State) (x : Byte)
@[simp] theorem State.withGFR_S : (s.withGFR x).S = s.S := rfl
@[simp] theorem State.withGFR_KEY : (s.withGFR x).KEY = s.KEY := rfl
@[simp] theorem State.withGFR_KLEN : (s.withGFR x).KLEN = s.KLEN := rfl
@[simp] theorem State.withGFR_RK : (s.withGFR x).RK = s.RK := rfl
@[simp] theorem State.withGFR_RKV : (s.withGFR x).RKV = s.RKV := rfl
@[simp] theorem State.withGFR_GFA : (s.withGFR x).GFA = s.GFA := rfl
@[simp] theorem State.withGFR_GFR : (s.withGFR x).GFR = x := rfl
@[simp] theorem State.withGFR_ERR : (s.withGFR x).ERR = s.ERR := rfl
@[simp] theorem State.withGFR_resetDone : (s.withGFR x).resetDone = s.resetDone := rfl
@[simp] theorem State.withGFR_host : (s.withGFR x).host = s.host := rfl
@[simp] theorem State.withGFR_reads : (s.withGFR x).reads = s.reads := rfl
end

section
variable (s : State) (x : Byte)
@[simp] theorem State.withERR_S : (s.withERR x).S = s.S := rfl
@[simp] theorem State.withERR_KEY : (s.withERR x).KEY = s.KEY := rfl
@[simp] theorem State.withERR_KLEN : (s.withERR x).KLEN = s.KLEN := rfl
@[simp] theorem State.withERR_RK : (s.withERR x).RK = s.RK := rfl
@[simp] theorem State.withERR_RKV : (s.withERR x).RKV = s.RKV := rfl
@[simp] theorem State.withERR_GFA : (s.withERR x).GFA = s.GFA := rfl
@[simp] theorem State.withERR_GFR : (s.withERR x).GFR = s.GFR := rfl
@[simp] theorem State.withERR_ERR : (s.withERR x).ERR = x := rfl
@[simp] theorem State.withERR_resetDone : (s.withERR x).resetDone = s.resetDone := rfl
@[simp] theorem State.withERR_host : (s.withERR x).host = s.host := rfl
@[simp] theorem State.withERR_reads : (s.withERR x).reads = s.reads := rfl
end

section
variable (s : State) (x : Bool)
@[simp] theorem State.withResetDone_S : (s.withResetDone x).S = s.S := rfl
@[simp] theorem State.withResetDone_KEY : (s.withResetDone x).KEY = s.KEY := rfl
@[simp] theorem State.withResetDone_KLEN : (s.withResetDone x).KLEN = s.KLEN := rfl
@[simp] theorem State.withResetDone_RK : (s.withResetDone x).RK = s.RK := rfl
@[simp] theorem State.withResetDone_RKV : (s.withResetDone x).RKV = s.RKV := rfl
@[simp] theorem State.withResetDone_GFA : (s.withResetDone x).GFA = s.GFA := rfl
@[simp] theorem State.withResetDone_GFR : (s.withResetDone x).GFR = s.GFR := rfl
@[simp] theorem State.withResetDone_ERR : (s.withResetDone x).ERR = s.ERR := rfl
@[simp] theorem State.withResetDone_resetDone : (s.withResetDone x).resetDone = x := rfl
@[simp] theorem State.withResetDone_host : (s.withResetDone x).host = s.host := rfl
@[simp] theorem State.withResetDone_reads : (s.withResetDone x).reads = s.reads := rfl
end

section
variable (s : State) (x : List HostEvent)
@[simp] theorem State.withHost_S : (s.withHost x).S = s.S := rfl
@[simp] theorem State.withHost_KEY : (s.withHost x).KEY = s.KEY := rfl
@[simp] theorem State.withHost_KLEN : (s.withHost x).KLEN = s.KLEN := rfl
@[simp] theorem State.withHost_RK : (s.withHost x).RK = s.RK := rfl
@[simp] theorem State.withHost_RKV : (s.withHost x).RKV = s.RKV := rfl
@[simp] theorem State.withHost_GFA : (s.withHost x).GFA = s.GFA := rfl
@[simp] theorem State.withHost_GFR : (s.withHost x).GFR = s.GFR := rfl
@[simp] theorem State.withHost_ERR : (s.withHost x).ERR = s.ERR := rfl
@[simp] theorem State.withHost_resetDone : (s.withHost x).resetDone = s.resetDone := rfl
@[simp] theorem State.withHost_host : (s.withHost x).host = x := rfl
@[simp] theorem State.withHost_reads : (s.withHost x).reads = s.reads := rfl
end

section
variable (s : State) (x : List Byte)
@[simp] theorem State.withReads_S : (s.withReads x).S = s.S := rfl
@[simp] theorem State.withReads_KEY : (s.withReads x).KEY = s.KEY := rfl
@[simp] theorem State.withReads_KLEN : (s.withReads x).KLEN = s.KLEN := rfl
@[simp] theorem State.withReads_RK : (s.withReads x).RK = s.RK := rfl
@[simp] theorem State.withReads_RKV : (s.withReads x).RKV = s.RKV := rfl
@[simp] theorem State.withReads_GFA : (s.withReads x).GFA = s.GFA := rfl
@[simp] theorem State.withReads_GFR : (s.withReads x).GFR = s.GFR := rfl
@[simp] theorem State.withReads_ERR : (s.withReads x).ERR = s.ERR := rfl
@[simp] theorem State.withReads_resetDone : (s.withReads x).resetDone = s.resetDone := rfl
@[simp] theorem State.withReads_host : (s.withReads x).host = s.host := rfl
@[simp] theorem State.withReads_reads : (s.withReads x).reads = x := rfl
end

section
variable (s : State)
@[simp] theorem done_S : (done s).S = s.S := rfl
@[simp] theorem done_KEY : (done s).KEY = s.KEY := rfl
@[simp] theorem done_KLEN : (done s).KLEN = s.KLEN := rfl
@[simp] theorem done_RK : (done s).RK = s.RK := rfl
@[simp] theorem done_RKV : (done s).RKV = s.RKV := rfl
@[simp] theorem done_GFA : (done s).GFA = s.GFA := rfl
@[simp] theorem done_GFR : (done s).GFR = s.GFR := rfl
@[simp] theorem done_ERR : (done s).ERR = okCode := rfl
@[simp] theorem done_resetDone : (done s).resetDone = s.resetDone := rfl
@[simp] theorem done_host : (done s).host = s.host := rfl
@[simp] theorem done_reads : (done s).reads = s.reads := rfl
@[simp] theorem raiseErr_S (e : ErrCode) : (raiseErr e s).S = s.S := rfl
@[simp] theorem raiseErr_KEY (e : ErrCode) : (raiseErr e s).KEY = s.KEY := rfl
@[simp] theorem raiseErr_KLEN (e : ErrCode) : (raiseErr e s).KLEN = s.KLEN := rfl
@[simp] theorem raiseErr_RK (e : ErrCode) : (raiseErr e s).RK = s.RK := rfl
@[simp] theorem raiseErr_RKV (e : ErrCode) : (raiseErr e s).RKV = s.RKV := rfl
@[simp] theorem raiseErr_GFA (e : ErrCode) : (raiseErr e s).GFA = s.GFA := rfl
@[simp] theorem raiseErr_GFR (e : ErrCode) : (raiseErr e s).GFR = s.GFR := rfl
@[simp] theorem raiseErr_ERR (e : ErrCode) : (raiseErr e s).ERR = errCode e := rfl
@[simp] theorem raiseErr_resetDone (e : ErrCode) : (raiseErr e s).resetDone = s.resetDone := rfl
@[simp] theorem raiseErr_host (e : ErrCode) : (raiseErr e s).host = s.host := rfl
@[simp] theorem raiseErr_reads (e : ErrCode) : (raiseErr e s).reads = s.reads := rfl
end

end Sys2Proof.Machine
end

