-- ==== Sys2Proof/Laws/Ops.lean ====
section
/-! SUPPORT. What each shared operation does, said once: the whole next state as one record. The provers cite these and do not unfold the
operations. -/

namespace Sys2Proof.Machine

theorem done_eq (s : State) : done s = { s with ERR := 0x00#8 } := rfl

theorem raiseErr_eq (e : ErrCode) (s : State) : raiseErr e s = { s with ERR := errCode e } := rfl

@[simp] theorem okCode_eq : okCode = 0x00#8 := rfl
@[simp] theorem errCode_eKeylen : errCode .eKeylen = 0x01#8 := rfl
@[simp] theorem errCode_eIllcmd : errCode .eIllcmd = 0x02#8 := rfl
@[simp] theorem errCode_eArg : errCode .eArg = 0x03#8 := rfl
@[simp] theorem errCode_eNokey : errCode .eNokey = 0x04#8 := rfl

theorem transformS_eq (f : Block → Block) (s : State) : transformS f s = { s with S := f s.S, ERR := 0x00#8 } := rfl

theorem writeKeyByte_eq (i : Fin 32) (v : Byte) (s : State) :
    writeKeyByte i v s = { s with KEY := s.KEY.set i v, RKV := false } := rfl

theorem writeKlen_eq (v : Byte) (s : State) : writeKlen v s = { s with KLEN := v, RKV := false } := rfl

theorem takeReset_eq (s : State) : takeReset s = { State.reset with host := s.host, reads := s.reads } := rfl

theorem queueCommand_eq (v : Byte) (s : State) :
    queueCommand v s = { s with host := .write cmdAddr v :: s.host, resetDone := true } := rfl

theorem loadSchedule_eq (s : State) :
    loadSchedule s = { s with RK := storeSchedule s.RK (keyExpansion s.KEY (nkOf s.KLEN)) (nrOf s.KLEN) } := rfl

/-- CIPHER and DECIPHER with a legal key length. -/
theorem runDriver_legal (f : Block → Vector Byte 32 → Nat → Block) {s : State} (h : klenLegal s.KLEN = true) :
    runDriver f s = { s with
      S := f s.S s.KEY (nkOf s.KLEN)
      RK := storeSchedule s.RK (keyExpansion s.KEY (nkOf s.KLEN)) (nrOf s.KLEN)
      RKV := false
      ERR := 0x00#8 } := by
  rw [runDriver, if_pos h]; rfl

/-- CIPHER and DECIPHER with any other key length. -/
theorem runDriver_illegal (f : Block → Vector Byte 32 → Nat → Block) {s : State} (h : klenLegal s.KLEN = false) :
    runDriver f s = { s with ERR := 0x01#8 } := by
  rw [runDriver, if_neg (by simp [h])]; rfl

theorem execKeyexpand_legal {s : State} (h : klenLegal s.KLEN = true) :
    execKeyexpand s = .next { s with
      RK := storeSchedule s.RK (keyExpansion s.KEY (nkOf s.KLEN)) (nrOf s.KLEN)
      RKV := true
      ERR := 0x00#8 } := by
  rw [execKeyexpand, if_pos h]; rfl

theorem execKeyexpand_illegal {s : State} (h : klenLegal s.KLEN = false) :
    execKeyexpand s = .next { s with ERR := 0x01#8 } := by
  rw [execKeyexpand, if_neg (by simp [h])]; rfl

theorem execAddroundkey_noKey {s : State} (n : Nat) (h : s.RKV = false) :
    execAddroundkey n s = .next { s with ERR := 0x04#8 } := by
  rw [execAddroundkey, if_neg (by simp [h])]; rfl

theorem execAddroundkey_badIndex {s : State} {n : Nat} (h : s.RKV = true) (hn : selectRoundKey s n = none) :
    execAddroundkey n s = .next { s with ERR := 0x03#8 } := by
  rw [execAddroundkey, if_pos h, hn]; rfl

theorem execAddroundkey_ok {s : State} {n : Nat} {k : Block} (h : s.RKV = true) (hn : selectRoundKey s n = some k) :
    execAddroundkey n s = .next { s with S := addRoundKey s.S k, ERR := 0x00#8 } := by
  rw [execAddroundkey, if_pos h, hn]; rfl

theorem execGmul_bad {c : Nat} (h : selectConst c = none) (s : State) :
    execGmul c s = .next { s with ERR := 0x03#8 } := by
  rw [execGmul, h]; rfl

theorem execGmul_ok {c : Nat} {k : GConst} (h : selectConst c = some k) (s : State) :
    execGmul c s = .next { s with GFR := gmul s.GFA k, ERR := 0x00#8 } := by
  rw [execGmul, h]; rfl

@[simp] theorem selectConst_toNat (k : GConst) : selectConst k.toNat = some k := by cases k <;> rfl

/-- The round key of an operand exists exactly when it is at most `Nr` and below 15. -/
theorem selectRoundKey_eq_some {s : State} {n : Nat} (hn : n ≤ nrOf s.KLEN) (h15 : n < 15) :
    selectRoundKey s n = some s.RK[n] := by
  simp [selectRoundKey, hn, h15]

theorem selectRoundKey_eq_none {s : State} {n : Nat} (h : nrOf s.KLEN < n ∨ 15 ≤ n) : selectRoundKey s n = none := by
  unfold selectRoundKey
  split
  · have : 15 ≤ n := by omega
    simp [this]
  · rfl

/-- A legal key length is one of three, with its `Nk` and `Nr`. -/
theorem klenLegal_cases {k : Byte} (h : klenLegal k = true) :
    (k = 16#8 ∧ nkOf k = 4 ∧ nrOf k = 10) ∨ (k = 24#8 ∧ nkOf k = 6 ∧ nrOf k = 12) ∨ (k = 32#8 ∧ nkOf k = 8 ∧ nrOf k = 14) := by
  simp only [klenLegal, Bool.or_eq_true, beq_iff_eq] at h
  rcases h with (rfl | rfl) | rfl <;> decide

end Sys2Proof.Machine
end

