-- ==== Sys2Proof/Laws/Views.lean ====
section
/-! SUPPORT. The small lemmas of words, blocks and the two views: reading back what was built, extensionality, and the index maps. -/

namespace Sys2Proof

@[simp] theorem Word.get_ofFn (f : Fin 4 → Byte) (r : Fin 4) : (Word.ofFn f).get r = f r := by
  fin_cases r <;> rfl

@[simp] theorem Word.get_map (f : Byte → Byte) (w : Word) (r : Fin 4) : (w.map f).get r = f (w.get r) := by
  fin_cases r <;> rfl

@[simp] theorem Word.get_xor (v w : Word) (r : Fin 4) : (v.xor w).get r = v.get r ^^^ w.get r := by
  fin_cases r <;> rfl

@[simp] theorem Word.get_zero (r : Fin 4) : Word.zero.get r = 0#8 := by
  fin_cases r <;> rfl

theorem Word.ext_get {v w : Word} (h : ∀ r, v.get r = w.get r) : v = w := by
  cases v; cases w
  have h0 := h 0
  have h1 := h 1
  have h2 := h 2
  have h3 := h 3
  simp_all [Word.get]

@[simp] theorem Word.get_zero_eq (w : Word) : w.get 0 = w.a0 := rfl
@[simp] theorem Word.get_one_eq (w : Word) : w.get 1 = w.a1 := rfl
@[simp] theorem Word.get_two_eq (w : Word) : w.get 2 = w.a2 := rfl
@[simp] theorem Word.get_three_eq (w : Word) : w.get 3 = w.a3 := rfl

@[simp] theorem Block.col_ofCols (f : Fin 4 → Word) (c : Fin 4) : (Block.ofCols f).col c = f c := by
  fin_cases c <;> rfl

theorem Block.ext_col {m n : Block} (h : ∀ c, m.col c = n.col c) : m = n := by
  cases m; cases n
  have h0 := h 0
  have h1 := h 1
  have h2 := h 2
  have h3 := h 3
  simp_all [Block.col]

namespace Machine

@[simp] theorem blockAt_blockOf (f : Fin 4 → Fin 4 → Byte) (r c : Fin 4) : blockAt (blockOf f) r c = f r c := by
  simp [blockAt, blockOf]

theorem blockAt_ofCols (f : Fin 4 → Word) (r c : Fin 4) : blockAt (Block.ofCols f) r c = (f c).get r := by
  simp [blockAt]

/-- Two blocks are equal when their matrix views are. -/
theorem block_ext {m n : Block} (h : ∀ r c, blockAt m r c = blockAt n r c) : m = n :=
  Block.ext_col fun c => Word.ext_get fun r => h r c

@[simp] theorem blockOf_blockAt (m : Block) : blockOf (blockAt m) = m := block_ext fun r c => by simp

@[simp] theorem blockAt_zero (r c : Fin 4) : blockAt Block.zero r c = 0#8 := by
  fin_cases c <;> fin_cases r <;> rfl

@[simp] theorem rowOf_seqIndex (r c : Fin 4) : rowOf (seqIndex r c) = r := by
  revert r c; decide

@[simp] theorem colOf_seqIndex (r c : Fin 4) : colOf (seqIndex r c) = c := by
  revert r c; decide

@[simp] theorem seqIndex_rowOf_colOf (i : Fin 16) : seqIndex (rowOf i) (colOf i) = i := by
  revert i; decide

@[simp] theorem blockByte_seqIndex (m : Block) (r c : Fin 4) : blockByte m (seqIndex r c) = blockAt m r c := by
  simp [blockByte]

/-- The byte sequence of a block built from a byte sequence is that sequence. -/
@[simp] theorem blockByte_blockOfBytes (b : Fin 16 → Byte) (i : Fin 16) : blockByte (blockOfBytes b) i = b i := by
  simp [blockByte, blockOfBytes]

@[simp] theorem blockAt_blockOfBytes (b : Fin 16 → Byte) (r c : Fin 4) : blockAt (blockOfBytes b) r c = b (seqIndex r c) := by
  simp [blockOfBytes]

/-- A byte written is read back, and every other byte is as before. -/
theorem blockAt_setAt (m : Block) (r c r' c' : Fin 4) (v : Byte) :
    blockAt (setAt m r c v) r' c' = if r' = r ∧ c' = c then v else blockAt m r' c' := by
  simp [setAt]

/-- The same through the byte-sequence view. -/
theorem blockByte_setAt (m : Block) (i j : Fin 16) (v : Byte) :
    blockByte (setAt m (rowOf i) (colOf i) v) j = if j = i then v else blockByte m j := by
  have h : (rowOf j = rowOf i ∧ colOf j = colOf i) ↔ j = i := by revert i j; decide
  simp [blockByte, blockAt_setAt, h]

theorem keyIndex_injective {r r' : Fin 4} {c c' : Fin 8} (h : keyIndex r c = keyIndex r' c') : r = r' ∧ c = c' := by
  simp only [keyIndex, Fin.mk.injEq] at h
  omega

@[simp] theorem get_keyColumn (key : Vector Byte 32) (c : Fin 8) (r : Fin 4) :
    (keyColumn key c).get r = key[keyIndex r c] := by
  simp [keyColumn]

end Machine

end Sys2Proof
end

