-- ==== Sys2Proof/Laws/KeySchedule.lean ====
section
/-! SUPPORT. How the word list of a key schedule grows, and how the store holds it. -/

namespace Sys2Proof.Machine

theorem length_expandWords (nk count : Nat) (w : List Word) : (expandWords nk count w).length = w.length + count := by
  induction count generalizing w with
  | zero => rfl
  | succ n ih => simp [expandWords, ih]; omega

theorem wordAt_append_left {w : List Word} (v : List Word) {j : Nat} (h : j < w.length) : wordAt (w ++ v) j = wordAt w j := by
  simp [wordAt, List.getD_eq_getElem?_getD, List.getElem?_append_left h]

/-- Words already made are never changed. -/
theorem wordAt_expandWords_lt (nk count : Nat) {w : List Word} {j : Nat} (h : j < w.length) :
    wordAt (expandWords nk count w) j = wordAt w j := by
  induction count generalizing w with
  | zero => rfl
  | succ n ih => rw [expandWords, ih (by simp; omega), wordAt_append_left _ h]

/-- A list that has grown by `count` words is the shorter list with the rest still to grow. -/
theorem expandWords_add (nk a b : Nat) (w : List Word) : expandWords nk (a + b) w = expandWords nk b (expandWords nk a w) := by
  induction a generalizing w with
  | zero => simp [expandWords]
  | succ n ih => rw [Nat.succ_add, expandWords, ih]; rfl

/-- The word made `k` words after the start is `nextWord` of the words before it. -/
theorem wordAt_expandWords_new (nk count : Nat) (w : List Word) {k : Nat} (hk : k < count) :
    wordAt (expandWords nk count w) (w.length + k) = nextWord nk (expandWords nk k w) := by
  obtain ⟨d, rfl⟩ : ∃ d, count = k + (d + 1) := ⟨count - k - 1, by omega⟩
  rw [expandWords_add, expandWords]
  rw [wordAt_expandWords_lt _ _ (by simp [length_expandWords])]
  have hl : w.length + k = (expandWords nk k w).length := (length_expandWords nk k w).symm
  rw [wordAt, hl, List.getD_eq_getElem?_getD]
  simp

@[simp] theorem getElem_storeSchedule (rk : Vector Block 15) (w : List Word) (nr : Nat) {n : Nat} (h : n < 15) :
    (storeSchedule rk w nr)[n] = if n ≤ nr then roundKeyOf w n else rk[n] := by
  simp [storeSchedule]

theorem col_roundKeyOf (w : List Word) (n : Nat) (c : Fin 4) : (roundKeyOf w n).col c = wordAt w (4 * n + c.val) := by
  fin_cases c <;> rfl

theorem length_initialWords (key : Vector Byte 32) {nk : Nat} (h : nk ≤ 8) : (initialWords key nk).length = nk := by
  simp [initialWords, h]

end Sys2Proof.Machine
end

