-- ==== Sys2Proof/Laws/PerInstr.lean ====
section
/-! SUPPORT. The family `EncodeInRow`: the byte of a well-formed command lies in the command's row of the opcode map,
`(v & mask) = match` (30_encoding.md R91), and its field `ARG` holds the operand. -/

namespace Sys2Proof.Laws.EncodeInRow

/-- The number the field `ARG` holds for a command: the operand, or the selector bit of the row (30_encoding.md R90). -/
def argOf : Instr → Nat
  | .cipher => 0
  | .decipher => 1
  | .keyexpand => 0
  | .subbytes => 0
  | .invsubbytes => 1
  | .shiftrows => 0
  | .invshiftrows => 1
  | .mixcolumns => 0
  | .invmixcolumns => 1
  | .addroundkey n => n
  | .xtime => 0
  | .gmul c => c

def Statement (i : Instr) : Prop :=
  i.wellFormed = true → encode i &&& rowMask i = rowMatch i ∧ argField (encode i) = argOf i

theorem cipher : Statement .cipher := fun _ => by decide
theorem decipher : Statement .decipher := fun _ => by decide
theorem keyexpand : Statement .keyexpand := fun _ => by decide
theorem subbytes : Statement .subbytes := fun _ => by decide
theorem invsubbytes : Statement .invsubbytes := fun _ => by decide
theorem shiftrows : Statement .shiftrows := fun _ => by decide
theorem invshiftrows : Statement .invshiftrows := fun _ => by decide
theorem mixcolumns : Statement .mixcolumns := fun _ => by decide
theorem invmixcolumns : Statement .invmixcolumns := fun _ => by decide

theorem addroundkey (n : Nat) : Statement (.addroundkey n) := by
  intro h
  have hn : n < 16 := by simpa [Instr.wellFormed, argFits] using h
  interval_cases n <;> decide

theorem xtime : Statement .xtime := fun _ => by decide

theorem gmul (c : Nat) : Statement (.gmul c) := by
  intro h
  have hc : c < 16 := by simpa [Instr.wellFormed, argFits] using h
  interval_cases c <;> decide

end Sys2Proof.Laws.EncodeInRow
end

