-- ==== Sys2Proof/Laws/Port.lean ====
section
/-! SUPPORT. The host port: where each window's addresses lead, what a step does with each kind of event, and one lemma that says everything
a command can do. -/

namespace Sys2Proof.Machine

@[simp] theorem locate_sbAddr (i : Fin 16) : locate (sbAddr i) = .sb i := by revert i; decide
@[simp] theorem locate_smAddr (r c : Fin 4) : locate (smAddr r c) = .sm r c := by revert r c; decide
@[simp] theorem locate_keyAddr (i : Fin 32) : locate (keyAddr i) = .key i := by revert i; decide
@[simp] theorem locate_kmAddr (r : Fin 4) (c : Fin 8) : locate (kmAddr r c) = .km r c := by revert r c; decide
set_option maxRecDepth 4000 in
@[simp] theorem locate_rkbAddr (n : Fin 15) (i : Fin 16) : locate (rkbAddr n i) = .rkb n i := by revert n i; decide
@[simp] theorem locate_cmdAddr : locate cmdAddr = .cmd := rfl

theorem hostWrite_cmdAddr (v : Byte) (s : State) : hostWrite cmdAddr v s = runCommand v s := rfl

theorem runCommand_command {v : Byte} {i : Instr} (h : decode v = .command i) (s : State) : runCommand v s = exec i s := by
  rw [runCommand, h]

theorem runCommand_illegal {v : Byte} (h : decode v = .illegal) (s : State) :
    runCommand v s = .next { s with ERR := 0x02#8 } := by
  rw [runCommand, h]; rfl

theorem step_nil {s : State} (h : s.host = []) : step s = .next s := by
  rw [step, serveNext, h]

theorem step_cons {s : State} {e : HostEvent} {rest : List HostEvent} (h : s.host = e :: rest) :
    step s = serve e (s.withHost rest) := by
  rw [step, serveNext, h]

@[simp] theorem serve_reset (s : State) : serve .reset s = .next (takeReset s) := rfl

theorem serve_read {s : State} (h : s.resetDone = true) (a : Addr) :
    serve (.read a) s = .next (s.withReads (hostRead s a :: s.reads)) := by
  simp [serve, h]

theorem serve_write {s : State} (h : s.resetDone = true) (a : Addr) (v : Byte) : serve (.write a v) s = hostWrite a v s := by
  simp [serve, h]

/-- Everything a command can do: it replaces `S`, the schedule, the flag, the result register and the error code, and nothing else. -/
theorem exec_cases (i : Instr) (s : State) :
    ∃ b rk v g e, exec i s = .next { s with S := b, RK := rk, RKV := v, GFR := g, ERR := e } := by
  cases i with
  | cipher | decipher =>
    simp only [exec_cipher, exec_decipher, execCipher, execDecipher]
    cases h : klenLegal s.KLEN with
    | true => rw [runDriver_legal _ h]; exact ⟨_, _, _, s.GFR, _, rfl⟩
    | false => rw [runDriver_illegal _ h]; exact ⟨s.S, s.RK, s.RKV, s.GFR, _, rfl⟩
  | keyexpand =>
    rw [exec_keyexpand]
    cases h : klenLegal s.KLEN with
    | true => rw [execKeyexpand_legal h]; exact ⟨s.S, _, _, s.GFR, _, rfl⟩
    | false => rw [execKeyexpand_illegal h]; exact ⟨s.S, s.RK, s.RKV, s.GFR, _, rfl⟩
  | subbytes | invsubbytes | shiftrows | invshiftrows | mixcolumns | invmixcolumns =>
    exact ⟨_, s.RK, s.RKV, s.GFR, _, rfl⟩
  | addroundkey n =>
    rw [exec_addroundkey]
    cases h : s.RKV with
    | false => rw [execAddroundkey_noKey n h]; exact ⟨s.S, s.RK, false, s.GFR, _, by rw [← h]⟩
    | true =>
      cases hn : selectRoundKey s n with
      | none => rw [execAddroundkey_badIndex h hn]; exact ⟨s.S, s.RK, true, s.GFR, _, by rw [← h]⟩
      | some k => rw [execAddroundkey_ok h hn]; exact ⟨_, s.RK, true, s.GFR, _, by rw [← h]⟩
  | xtime => exact ⟨s.S, s.RK, s.RKV, _, _, rfl⟩
  | gmul c =>
    rw [exec_gmul]
    cases h : selectConst c with
    | none => rw [execGmul_bad h]; exact ⟨s.S, s.RK, s.RKV, s.GFR, _, rfl⟩
    | some k => rw [execGmul_ok h]; exact ⟨s.S, s.RK, s.RKV, _, _, rfl⟩

/-- Everything a step can do when it gives a next state: nothing (idle), a reset, a read, or a write. -/
theorem step_cases {s t : State} (h : step s = .next t) :
    (s.host = [] ∧ t = s) ∨
    ∃ e rest, s.host = e :: rest ∧
      ((e = .reset ∧ t = takeReset (s.withHost rest)) ∨
       (∃ a, e = .read a ∧ s.resetDone = true ∧ t = (s.withHost rest).withReads (hostRead (s.withHost rest) a :: s.reads)) ∨
       (∃ a v, e = .write a v ∧ s.resetDone = true ∧ hostWrite a v (s.withHost rest) = .next t)) := by
  cases hh : s.host with
  | nil => rw [step_nil hh] at h; cases h; exact .inl ⟨rfl, rfl⟩
  | cons e rest =>
    rw [step_cons hh] at h
    refine .inr ⟨e, rest, rfl, ?_⟩
    cases hr : s.resetDone <;> cases e <;> simp_all [serve]

end Sys2Proof.Machine
end

