-- ==== Sys2Proof/Laws/Run.lean ====
section
/-! SUPPORT. Runs: one step of the host's `run`, command lists piece by piece, and reads that depend on the spec's registers only. -/

namespace Sys2Proof.Machine

theorem run_core_succ (M : Host.Core) (k : Nat) {s t : M.State} (h : M.step s = .next t) : M.run (k + 1) s = M.run k t := by
  rw [Host.Core.run, h]

/-- A run of `k + 1` steps is a run of `k` steps from the next state. -/
theorem run_succ (k : Nat) {s t : State} (h : step s = .next t) :
    (Host.Core.run Sys2Proof.core (k + 1) s : Result) = Host.Core.run Sys2Proof.core k t :=
  run_core_succ Sys2Proof.core k h

@[simp] theorem execList_nil (s : State) : execList [] s = .next s := rfl

theorem execList_cons {i : Instr} {s t : State} (is : List Instr) (h : exec i s = .next t) :
    execList (i :: is) s = execList is t := by
  rw [execList, h]

theorem execList_append {l : List Instr} (m : List Instr) {s t : State} (h : execList l s = .next t) :
    execList (l ++ m) s = execList m t := by
  induction l generalizing s with
  | nil => cases h; rfl
  | cons i is ih =>
    rw [List.cons_append, execList]
    rw [execList] at h
    split at h
    · exact ih h
    · cases h
    · cases h

/-- What the host reads is a function of the spec's registers: the model's own fields do not enter. -/
theorem hostRead_congr {s t : State} (hS : t.S = s.S) (hKEY : t.KEY = s.KEY) (hKLEN : t.KLEN = s.KLEN) (hRK : t.RK = s.RK)
    (hRKV : t.RKV = s.RKV) (hGFA : t.GFA = s.GFA) (hGFR : t.GFR = s.GFR) (hERR : t.ERR = s.ERR) (a : Addr) :
    hostRead t a = hostRead s a := by
  unfold hostRead
  cases locate a <;> simp [readLocation, *, statusByte, paramByte, rkcntByte, readRoundKeyByte]

end Sys2Proof.Machine
end

