-- ==== Sys2Proof/Laws/Trace.lean ====
section
/-! SUPPORT. The trace hook: how many checkpoints a loop of rounds has, where it ends, what is shown at a checkpoint
and which round keys can be. -/

namespace Sys2Proof.Machine

@[simp] theorem roundsTrace_snd (step : Block → Nat → Block) (snap : Block → Nat → List Block) (l : List Nat) (st : Block) :
    (roundsTrace step snap l st).2 = l.foldl step st := by
  induction l generalizing st with
  | nil => rfl
  | cons r rs ih => simp [roundsTrace, ih]

theorem length_roundsTrace {step : Block → Nat → Block} {snap : Block → Nat → List Block} {m : Nat}
    (h : ∀ st r, (snap st r).length = m) (l : List Nat) (st : Block) : (roundsTrace step snap l st).1.length = m * l.length := by
  induction l generalizing st with
  | nil => rfl
  | cons r rs ih => simp [roundsTrace, ih, h, Nat.mul_succ, Nat.add_comm]

/-- The round keys shown inside CIPHER and DECIPHER are of the schedule. -/
theorem scheduleKey_eq_some {s : State} {n : Nat} {k : Block} (h : scheduleKey s n = some k) :
    ∃ m, m ≤ nrOf s.KLEN ∧ k = roundKeyOf (keyExpansion s.KEY (nkOf s.KLEN)) m :=
  ⟨n % (nrOf s.KLEN + 1), Nat.le_of_lt_succ (Nat.mod_lt n (Nat.succ_pos _)), (Option.some.inj h).symm⟩

/-- The round keys shown after a step command are those in `RK`, with `RKV = 1`. -/
theorem storedKey_eq_some {r : Result} {n : Nat} {k : Block} (h : storedKey r n = some k) :
    ∃ t, r = .next t ∧ t.RKV = true ∧ ∃ m : Fin 15, m.val ≤ nrOf t.KLEN ∧ k = t.RK[m] := by
  cases r with
  | next t =>
    simp only [storedKey, selectRoundKey] at h
    split at h
    · next hv =>
      split at h
      · next hn =>
        obtain ⟨h15, hk⟩ := Vector.getElem?_eq_some_iff.1 h
        exact ⟨t, rfl, hv, ⟨_, h15⟩, hn, hk.symm⟩
      · cases h
    · cases h
  | fault f => cases h
  | refused f => cases h

/-- What is shown inside CIPHER and DECIPHER: `S`, and then the round keys. -/
theorem shownBlocks_inside (keys : List Block) (b : Block) : shownBlocks true keys b = b :: keys := rfl

/-- What is shown after a step command: one block, `S` or one of the round keys. -/
theorem shownBlocks_after (keys : List Block) (b : Block) : ∃ x, shownBlocks false keys b = [x] ∧ (x = b ∨ x ∈ keys) := by
  cases keys with
  | nil => exact ⟨b, rfl, .inl rfl⟩
  | cons k ks => exact ⟨k, rfl, .inr (by simp)⟩

end Sys2Proof.Machine
end

