-- ==== Sys2Proof/Laws/Transforms.lean ====
section
/-! SUPPORT. The transforms element by element and column by column: later proofs use these and never unfold a transform. -/

namespace Sys2Proof.Machine

@[simp] theorem blockAt_subBytes (m : Block) (r c : Fin 4) : blockAt (subBytes m) r c = SBOX (blockAt m r c) := by
  simp [subBytes]

@[simp] theorem blockAt_invSubBytes (m : Block) (r c : Fin 4) : blockAt (invSubBytes m) r c = INVSBOX (blockAt m r c) := by
  simp [invSubBytes]

@[simp] theorem blockAt_shiftRows (m : Block) (r c : Fin 4) : blockAt (shiftRows m) r c = blockAt m r (c + r) := by
  simp [shiftRows]

@[simp] theorem blockAt_invShiftRows (m : Block) (r c : Fin 4) : blockAt (invShiftRows m) r c = blockAt m r (c - r) := by
  simp [invShiftRows]

@[simp] theorem blockAt_addRoundKey (m k : Block) (r c : Fin 4) :
    blockAt (addRoundKey m k) r c = blockAt m r c ^^^ blockAt k r c := by
  simp [addRoundKey]

@[simp] theorem col_mixColumns (m : Block) (c : Fin 4) : (mixColumns m).col c = mixColumn (m.col c) := by
  simp [mixColumns]

@[simp] theorem col_invMixColumns (m : Block) (c : Fin 4) : (invMixColumns m).col c = invMixColumn (m.col c) := by
  simp [invMixColumns]

@[simp] theorem blockAt_mixColumns (m : Block) (r c : Fin 4) : blockAt (mixColumns m) r c = (mixColumn (m.col c)).get r := by
  simp [blockAt]

@[simp] theorem blockAt_invMixColumns (m : Block) (r c : Fin 4) :
    blockAt (invMixColumns m) r c = (invMixColumn (m.col c)).get r := by
  simp [blockAt]

end Sys2Proof.Machine
end

