-- ==== Sys2Proof/Tests/Slice0.lean ====
section
/-! SUPPORT. The model's own tests. Expected values come from the spec: the encodings from 30_encoding.md, the results from
95_test_vectors.md and the worked examples of the rules. The second half holds, for every statement with hypotheses, a theorem
`witness_<Name>` that shows states and operands meeting them. -/

namespace Sys2Proof.Tests

open Sys2Proof Sys2Proof.Machine

/-! ## Helpers -/

/-- The next state of a result, none where the machine stops. -/
def nextOf : Result → Option State
  | .next t => some t
  | .fault _ => none
  | .refused _ => none

/-- One register of the next state. -/
def getNext {α : Type} (f : State → α) (r : Result) : Option α := (nextOf r).map f

/-- Right after reset, with the block `n` in `S`. -/
def withBlock (n : Nat) : State := { State.reset with S := hexBlock n }

/-- Right after reset, with a key and a key length. -/
def withKey (klen : Byte) (n : Nat) : State := { State.reset with KLEN := klen, KEY := hexKey n }

/-- The key of the known-answer vector X1 (95_test_vectors.md section 1). -/
def keyX1 : Nat := 0x000102030405060708090a0b0c0d0e0f00000000000000000000000000000000

/-- The plaintext of the known-answer vector X1. -/
def plainX1 : Nat := 0x00112233445566778899aabbccddeeff

/-- The ciphertext of the known-answer vector X1. -/
def cipherX1 : Nat := 0x69c4e0d86a7b0430d8cdb78070b4c55a

/-- The machine of X1 before CIPHER. -/
def readyX1 : State := { withKey 16#8 keyX1 with S := hexBlock plainX1 }

/-- The machine after a KEYEXPAND of the all-zero key of 16 bytes. -/
def expanded : State :=
  { withKey 16#8 0 with RK := storeSchedule State.reset.RK (keyExpansion (hexKey 0) 4) 10, RKV := true }

/-! ## Well-formedness: terms the check refuses, and the largest it accepts (30_encoding.md R92, R93) -/

theorem test_illformed_addroundkey : (Instr.addroundkey 16).wellFormed = false := by decide
theorem test_illformed_gmul : (Instr.gmul 16).wellFormed = false := by decide
theorem test_wellformed_largest : (Instr.addroundkey 15).wellFormed = true ∧ (Instr.gmul 15).wellFormed = true := by decide

/-! ## Decoding: each command's byte written out from `OP` and `ARG` (30_encoding.md R91) -/

theorem test_decode_cipher : decode 0b00010000#8 = .command .cipher := by decide
theorem test_decode_decipher : decode 0b00010001#8 = .command .decipher := by decide
theorem test_decode_keyexpand : decode 0b00100000#8 = .command .keyexpand := by decide
theorem test_decode_subbytes : decode 0b00110000#8 = .command .subbytes := by decide
theorem test_decode_invsubbytes : decode 0b00110001#8 = .command .invsubbytes := by decide
theorem test_decode_shiftrows : decode 0b01000000#8 = .command .shiftrows := by decide
theorem test_decode_invshiftrows : decode 0b01000001#8 = .command .invshiftrows := by decide
theorem test_decode_mixcolumns : decode 0b01010000#8 = .command .mixcolumns := by decide
theorem test_decode_invmixcolumns : decode 0b01010001#8 = .command .invmixcolumns := by decide
theorem test_decode_addroundkey : decode 0b01100101#8 = .command (.addroundkey 5) := by decide
theorem test_decode_xtime : decode 0b01110000#8 = .command .xtime := by decide
theorem test_decode_gmul : decode 0b10001011#8 = .command (.gmul 0xb) := by decide
theorem test_decode_illegal : decode 0b01110001#8 = .illegal ∧ decode 0b10010000#8 = .illegal := by decide
/-- The widths of 00_scope.md R8 are those of the types. -/
theorem test_widths : Byte = BitVec Config.hostDataWidth ∧ Addr = BitVec Config.hostAddressWidth ∧ Byte = BitVec Config.commandWidth :=
  ⟨rfl, rfl, rfl⟩

theorem test_decodeTableWord : decodeTableWord 8 0x6A = some (.addroundkey 10) ∧ decodeTableWord 8 0x12 = none := by decide

/-! ## Commands (95_test_vectors.md section 2) -/

theorem test_xtime_folds : getNext (·.GFR) (exec .xtime { State.reset with GFA := 0x81#8 }) = some 0x19#8 := by decide
theorem test_gmul_0d : getNext (·.GFR) (exec (.gmul 0xd) { State.reset with GFA := 0xd4#8 }) = some 0x53#8 := by decide
theorem test_gmul_bad : getNext (fun t => (t.GFR, t.ERR)) (exec (.gmul 0x4) { State.reset with GFA := 0x57#8, GFR := 0xae#8 })
    = some (0xae#8, 0x03#8) := by decide
theorem test_subbytes : getNext (·.S) (exec .subbytes (withBlock 0x000102030405060708090a0b0c0d0e0f))
    = some (hexBlock 0x637c777bf26b6fc53001672bfed7ab76) := by decide +kernel
theorem test_invsubbytes : getNext (·.S) (exec .invsubbytes (withBlock 0x53000000000000000000000000000000))
    = some (hexBlock 0x50525252525252525252525252525252) := by decide +kernel
theorem test_shiftrows : getNext (·.S) (exec .shiftrows (withBlock 0x63cab7040953d051cd60e0e7ba70e18c))
    = some (hexBlock 0x6353e08c0960e104cd70b751bacad0e7) := by decide +kernel
theorem test_invshiftrows : getNext (·.S) (exec .invshiftrows (withBlock 0x000102030405060708090a0b0c0d0e0f))
    = some (hexBlock 0x000d0a0704010e0b0805020f0c090603) := by decide +kernel
theorem test_mixcolumns : getNext (·.S) (exec .mixcolumns (withBlock 0xd4bf5d30e0b452aeb84111f11e2798e5))
    = some (hexBlock 0x046681e5e0cb199a48f8d37a2806264c) := by decide +kernel
theorem test_invmixcolumns : getNext (·.S) (exec .invmixcolumns (withBlock 0x01000000000000000000000000000000))
    = some (hexBlock 0x0e090d0b000000000000000000000000) := by decide +kernel
theorem test_addroundkey : getNext (·.S) (exec (.addroundkey 1) { expanded with S := hexBlock 0 })
    = some (hexBlock 0x62636363626363636263636362636363) := by decide +kernel
theorem test_addroundkey_15 : getNext (·.ERR) (exec (.addroundkey 15) expanded) = some 0x03#8 := by decide +kernel
theorem test_keyexpand : getNext (fun t => (t.RK[10], t.RKV)) (exec .keyexpand readyX1)
    = some (hexBlock 0x13111d7fe3944a17f307a78b4d2b30c5, true) := by decide +kernel
theorem test_cipher_192 : getNext (·.S) (exec .cipher { withKey 24#8
      0x000102030405060708090a0b0c0d0e0f10111213141516170000000000000000 with S := hexBlock plainX1 })
    = some (hexBlock 0xdda97ca4864cdfe06eaf70a0ec0d7191) := by decide +kernel
theorem test_cipher_256 : getNext (·.S) (exec .cipher { withKey 32#8
      0x000102030405060708090a0b0c0d0e0f101112131415161718191a1b1c1d1e1f with S := hexBlock plainX1 })
    = some (hexBlock 0x8ea2b7ca516745bfeafc49904b496089) := by decide +kernel
theorem test_decipher_128 : getNext (fun t => (t.S, t.RKV)) (exec .decipher { readyX1 with S := hexBlock cipherX1, RKV := true })
    = some (hexBlock plainX1, false) := by decide +kernel
theorem test_decipher_keylen : getNext (fun t => (t.S, t.ERR)) (exec .decipher { readyX1 with KLEN := 20#8 })
    = some (hexBlock plainX1, 0x01#8) := by decide +kernel

/-! ## The port -/

/-- A command placed by `withFetchWord` is what the very next step runs. -/
theorem test_withFetchWord : getNext (·.S) (step (State.reset.withFetchWord 8 0x30)) = some (constBlock 0x63#8) := by decide +kernel
/-- Address 0x011 and address 0x004 are the same byte (20_memory.md R65). -/
theorem test_two_windows : getNext (fun t => (hostRead t 0x004#9, hostRead t 0x001#9)) (hostWrite 0x011#9 0x5A#8 State.reset)
    = some (0x5A#8, 0x00#8) := by decide +kernel
/-- Address 0x049 is `KEY[5]`, and the write clears `RKV` (20_memory.md R67, R71). -/
theorem test_key_matrix : getNext (fun t => (hostRead t 0x025#9, t.RKV)) (hostWrite 0x049#9 0x5A#8 expanded)
    = some (0x5A#8, false) := by decide +kernel
/-- The `RKB` window shows round key 1, and zero beyond `Nr` (20_memory.md R68). -/
theorem test_round_key_window : hostRead expanded 0x110#9 = 0x62#8 ∧ hostRead expanded 0x1B0#9 = 0x00#8 := by decide +kernel
/-- Two lines of the trace of X1 (95_test_vectors.md section 3): round 1 `MixColumns` and the output. -/
theorem test_trace : (checkpoints .cipher readyX1)[4]? = some (hexBlock 0x5f72641557f5bc92f7be3b291db9f91a) ∧
    (checkpoints .cipher readyX1)[40]? = some (hexBlock cipherX1) := by decide +kernel
/-- A step command is traced also when it fails (60_exceptions.md R216): with `RKV = 0` there is no round key to show, so it is `S`. -/
theorem test_trace_failed : (tracePort true (.addroundkey 3) readyX1).map (·.data) = [hexBlock plainX1] := by
  have h : ∀ l : List Nat, l.filterMap (traceKeys (.addroundkey 3) readyX1) = [] := fun l => by
    simp only [List.filterMap_eq_nil_iff]; exact fun _ _ => rfl
  have hb : checkpoints (.addroundkey 3) readyX1 = [hexBlock plainX1] := rfl
  simp [tracePort, hb, snapshotsAt, h, tracedInside, shownBlocks]
theorem readyX1_S : readyX1.S = hexBlock plainX1 := rfl

/-- The first thing a sink sees of a CIPHER is its input (95_test_vectors.md section 3). -/
theorem test_trace_input : ((tracePort true .cipher readyX1).map (·.data)).head? = some (hexBlock plainX1) := by
  have h : klenLegal readyX1.KLEN = true := by decide
  simp [tracePort, checkpoints, h, cipherTrace, snapshotsAt, tracedInside, shownBlocks, readyX1_S]
/-- `STATUS`, `PARAM` and `RKCNT` after a KEYEXPAND of a 16-byte key (10_state.md R33 to R35). -/
theorem test_derived : hostRead expanded 0x063#9 = 0x03#8 ∧ hostRead expanded 0x064#9 = 0xA4#8 ∧ hostRead expanded 0x065#9 = 0x0B#8 := by
  decide +kernel

/-! ## Witnesses: states and operands that meet the hypotheses of each statement -/

theorem reset_current : ScheduleCurrent State.reset := fun h => by cases h

/-- The invariant of 10_state.md R27 with `RKV = 1`. -/
theorem expanded_current : ScheduleCurrent expanded := by
  unfold ScheduleCurrent; decide +kernel

theorem witness_DecodeEncodeAgree : (Instr.gmul 15).wellFormed = true ∧ decode 0x6F#8 = .command (.addroundkey 15) := by decide

theorem witness_IllegalBytesReportError : decode 0x00#8 = .illegal ∧ decode 0x0F#8 = .illegal ∧ decode 0x12#8 = .illegal ∧
    decode 0x5F#8 = .illegal ∧ decode 0x71#8 = .illegal ∧ decode 0x90#8 = .illegal ∧ decode 0xFF#8 = .illegal := by decide

/-- `n = 15`; `n` just above `Nr = 10`; constants on both sides of `GCONST`'s gaps. -/
theorem witness_OperandsUnscaled : ScheduleCurrent expanded ∧ expanded.RKV = true ∧ (15 : Nat) < 16 ∧ nrOf expanded.KLEN < 11 ∧
    (∀ c ∈ [0x0, 0x4, 0x8, 0xa, 0xc, 0xf], c < 16 ∧ c ∉ [0x1, 0x2, 0x3, 0x9, 0xb, 0xd, 0xe]) :=
  ⟨expanded_current, by decide⟩

theorem witness_KeyLengthTable : klenLegal 16#8 = true ∧ klenLegal 24#8 = true ∧ klenLegal 32#8 = true := by decide

theorem witness_SboxLaws : (0x01#8 : Byte) ≠ 0x00#8 ∧ (0xFF#8 : Byte) ≠ 0x00#8 := by decide

theorem witness_RconTable : (8 : Nat) < 9 ∧ ((4, 9) : Nat × Nat) ∈ [(4, 9), (6, 7), (8, 6)] ∧ ((8, 6) : Nat × Nat) ∈ [(4, 9), (6, 7), (8, 6)] := by
  decide

theorem witness_XtimeShiftsAndFolds : (0x7F#8 : Byte).toNat < 128 ∧ 128 ≤ (0x80#8 : Byte).toNat ∧ 128 ≤ (0xFF#8 : Byte).toNat := by decide

theorem witness_XtimeCommand : ∀ v ∈ [0x00#8, 0x80#8, 0xff#8, 0x57#8], ({ State.reset with GFA := v } : State).GFA = v := by
  intro v _; rfl

theorem witness_GmulCommand : (15 : Nat) < 16 ∧ (15 : Nat) ∉ [0x1, 0x2, 0x3, 0x9, 0xb, 0xd, 0xe] ∧
    (∀ v ∈ [0x00#8, 0xd4#8, 0xbf#8], ({ State.reset with GFA := v } : State).GFA = v) :=
  ⟨by decide, by decide, fun _ _ => rfl⟩

/-- A successful XTIME, a failing GMUL, and an address the frame speaks of. -/
theorem witness_GaloisCommandsFrame :
    (∃ t, exec .xtime { State.reset with GFA := 0x80#8 } = .next t ∧ t.GFR = 0x1b#8) ∧ (∃ t, exec (.gmul 4) State.reset = .next t) ∧
    locate 0x066#9 ≠ .gfr ∧ (locate 0x066#9).isErr = false ∧ locate 0x067#9 = .gfr ∧ (locate 0x063#9).isErr = true :=
  ⟨⟨_, rfl, by decide⟩, ⟨_, rfl⟩, by decide⟩

theorem witness_SubbytesCommand : (withBlock 0).S = constBlock 0x00#8 ∧
    (withBlock 0xffffffffffffffffffffffffffffffff).S = constBlock 0xff#8 ∧ (withBlock plainX1).S = hexBlock plainX1 := by decide +kernel

theorem witness_InvsubbytesCommand : (withBlock 0).S = constBlock 0x00#8 ∧
    (withBlock 0xffffffffffffffffffffffffffffffff).S = constBlock 0xff#8 ∧
    (withBlock 0x638293c31bfc33f5c4eeacea4bc12816).S = hexBlock 0x638293c31bfc33f5c4eeacea4bc12816 := by decide +kernel

/-- A block of four equal columns that are not of equal bytes. -/
theorem witness_ShiftrowsCommand : (∀ c, (withBlock 0x00112233001122330011223300112233).S.col c =
      (withBlock 0x00112233001122330011223300112233).S.col 0) ∧
    (withBlock plainX1).S = hexBlock 0x00112233445566778899aabbccddeeff := by decide +kernel

theorem witness_InvshiftrowsCommand : (∀ c, (withBlock 0x00112233001122330011223300112233).S.col c =
      (withBlock 0x00112233001122330011223300112233).S.col 0) ∧
    (withBlock 0x0055aaff4499ee3388dd2277cc1166bb).S = hexBlock 0x0055aaff4499ee3388dd2277cc1166bb := by decide +kernel

/-- A column of four equal bytes beside columns that are not. -/
theorem witness_MixcolumnsCommand : (∀ r, blockAt (withBlock 0x0011223355555555445566778899aabb).S r 1 =
      blockAt (withBlock 0x0011223355555555445566778899aabb).S 0 1) ∧
    (withBlock plainX1).S = hexBlock 0x00112233445566778899aabbccddeeff := by decide +kernel

theorem witness_InvmixcolumnsCommand : (∀ r, blockAt (withBlock 0x0011223355555555445566778899aabb).S r 1 =
      blockAt (withBlock 0x0011223355555555445566778899aabb).S 0 1) ∧
    (withBlock plainX1).S = hexBlock 0x00112233445566778899aabbccddeeff := by decide +kernel

/-- `RKV = 0`; `n` just above `Nr`; `n = Nr`; a round key of zero bytes; X1's state. -/
theorem witness_AddroundkeyCommand : ScheduleCurrent expanded ∧ State.reset.RKV = false ∧ expanded.RKV = true ∧ nrOf expanded.KLEN < 11 ∧
    (⟨10, by decide⟩ : Fin 15).val ≤ nrOf expanded.KLEN ∧ expanded.RK[0] = constBlock 0x00#8 ∧
    (readyX1.KLEN = 16#8 ∧ readyX1.KEY = hexKey 0x000102030405060708090a0b0c0d0e0f00000000000000000000000000000000 ∧
      readyX1.S = hexBlock 0x00112233445566778899aabbccddeeff) :=
  ⟨expanded_current, by decide +kernel⟩

/-- Two different blocks that agree in byte 0, one in row 0, one in column 0. -/
theorem witness_TransformLanes : hexBlock 0 ≠ hexBlock 0x00010000000000000000000000000000 ∧
    blockByte (hexBlock 0) 0 = blockByte (hexBlock 0x00010000000000000000000000000000) 0 ∧
    (∀ c, blockAt (hexBlock 0) 0 c = blockAt (hexBlock 0x00010000000000000000000000000000) 0 c) ∧
    (hexBlock 0).col 3 = (hexBlock 0x00010000000000000000000000000000).col 3 := by decide +kernel

theorem witness_TransformCommandsFrame : (∃ t, exec .mixcolumns (withBlock plainX1) = .next t ∧ t.S ≠ (withBlock plainX1).S) ∧
    (∃ t, exec (.addroundkey 3) State.reset = .next t) ∧
    (locate 0x020#9).isState = false ∧ (locate 0x020#9).isErr = false ∧ (locate 0x01F#9).isState = true :=
  ⟨⟨_, rfl, by decide +kernel⟩, ⟨_, rfl⟩, by decide⟩

theorem witness_KeyExpansionStart : (6 : Nat) ∈ [4, 6, 8] ∧ (5 : Fin 8).val < 6 ∧ (8 : Nat) ∈ [4, 6, 8] ∧ (7 : Fin 8).val < 8 := by decide

/-- The first and the last word of a schedule, and the extra substitution at `i mod 8 = 4`. -/
theorem witness_KeyExpansionRecurrence : (4 : Nat) ∈ [4, 6, 8] ∧ 4 ≤ 4 ∧ 4 < 4 * (4 + 6 + 1) ∧ 43 < 4 * (4 + 6 + 1) ∧ 4 % 4 = 0 ∧
    (8 : Nat) ∈ [4, 6, 8] ∧ 8 ≤ 60 - 1 ∧ 59 < 4 * (8 + 6 + 1) ∧ 12 % 8 = 4 := by decide

theorem witness_RoundKeyLayout : klenLegal (withKey 24#8 keyX1).KLEN = true ∧ (withKey 24#8 keyX1).KLEN = 24#8 ∧
    klenLegal (withKey 32#8 keyX1).KLEN = true ∧ (withKey 32#8 keyX1).KLEN = 32#8 ∧
    (59 : Fin 60).val < 4 * (nrOf (withKey 32#8 keyX1).KLEN + 1) ∧ (14 : Fin 15).val ≤ nrOf (withKey 32#8 keyX1).KLEN ∧
    (7 : Fin 16).val < 8 := by decide

theorem witness_KeyexpandCommand : klenLegal readyX1.KLEN = true ∧ (11 : Fin 15).val > nrOf readyX1.KLEN ∧
    (klenLegal State.reset.KLEN = false ∧ ScheduleCurrent State.reset) ∧ ScheduleCurrent expanded ∧ expanded.RKV = true ∧
    (∃ t, exec .keyexpand readyX1 = .next t) ∧
    (expanded.KLEN = 16#8 ∧ expanded.KEY = hexKey 0) ∧ (readyX1.KLEN = 16#8 ∧
      readyX1.KEY = hexKey 0x000102030405060708090a0b0c0d0e0f00000000000000000000000000000000) :=
  ⟨by decide, by decide, ⟨by decide, reset_current⟩, expanded_current, by decide, ⟨_, rfl⟩, by decide +kernel⟩

/-- Two keys that differ at the first unused byte. -/
theorem differ_in_unused_byte : SameUsedKey readyX1 { readyX1 with KEY := readyX1.KEY.set 16 0xFF#8 } := by
  unfold SameUsedKey; decide +kernel

theorem witness_UnusedKeyBytesIgnored : SameUsedKey readyX1 { readyX1 with KEY := readyX1.KEY.set 16 0xFF#8 } ∧
    readyX1.KEY ≠ readyX1.KEY.set 16 0xFF#8 ∧ Instr.keyexpand ∈ [Instr.keyexpand, .cipher, .decipher] :=
  ⟨differ_in_unused_byte, by decide +kernel, by decide⟩

/-- The states of an encryption, round by round. -/
def encryptionStates (w : List Word) (p : Block) : Nat → Block
  | 0 => addRoundKey p (roundKeyOf w 0)
  | round + 1 => addRoundKey (mixColumns (shiftRows (subBytes (encryptionStates w p round)))) (roundKeyOf w (round + 1))

theorem witness_CipherRounds : ∃ st : Nat → Block, (8 : Nat) ∈ [4, 6, 8] ∧
    st 0 = addRoundKey (hexBlock plainX1) (roundKeyOf (keyExpansion (hexKey keyX1) 8) 0) ∧
    (∀ round, 1 ≤ round → round ≤ 8 + 6 - 1 → st round =
      addRoundKey (mixColumns (shiftRows (subBytes (st (round - 1))))) (roundKeyOf (keyExpansion (hexKey keyX1) 8) round)) := by
  refine ⟨encryptionStates (keyExpansion (hexKey keyX1) 8) (hexBlock plainX1), by decide, rfl, ?_⟩
  intro round h1 _
  obtain ⟨k, rfl⟩ : ∃ k, round = k + 1 := ⟨round - 1, by omega⟩
  rfl

/-- The states of a decryption, by how many middle rounds have been done. -/
def decryptionStates (w : List Word) (nr : Nat) (q : Block) : Nat → Block
  | 0 => invSubBytes (invShiftRows (addRoundKey q (roundKeyOf w nr)))
  | k + 1 => invSubBytes (invShiftRows (invMixColumns (addRoundKey (decryptionStates w nr q k) (roundKeyOf w (nr - (k + 1))))))

theorem witness_DecipherRounds : ∃ st : Nat → Block, (8 : Nat) ∈ [4, 6, 8] ∧
    st (8 + 6) = invSubBytes (invShiftRows (addRoundKey (hexBlock cipherX1) (roundKeyOf (keyExpansion (hexKey keyX1) 8) (8 + 6)))) ∧
    (∀ round, 1 ≤ round → round ≤ 8 + 6 - 1 → st round = invSubBytes (invShiftRows (invMixColumns
      (addRoundKey (st (round + 1)) (roundKeyOf (keyExpansion (hexKey keyX1) 8) round))))) := by
  refine ⟨fun r => decryptionStates (keyExpansion (hexKey keyX1) 8) 14 (hexBlock cipherX1) (14 - r), by decide, rfl, ?_⟩
  intro round h1 h2
  obtain ⟨k, hk⟩ : ∃ k, 14 - round = k + 1 := ⟨13 - round, by omega⟩
  have h3 : 14 - (round + 1) = k := by omega
  have h4 : 14 - (k + 1) = round := by omega
  simp only [hk, h3, decryptionStates, h4]

theorem witness_CipherCommand : klenLegal readyX1.KLEN = true ∧ (10 : Fin 15).val ≤ nrOf readyX1.KLEN ∧
    nrOf readyX1.KLEN < (11 : Fin 15).val ∧ klenLegal State.reset.KLEN = false ∧
    SameUsedKey readyX1 { readyX1 with KEY := readyX1.KEY.set 16 0xFF#8 } ∧
    (readyX1.KLEN = 16#8 ∧ readyX1.KEY = hexKey 0x000102030405060708090a0b0c0d0e0f00000000000000000000000000000000 ∧
      readyX1.S = hexBlock 0x00112233445566778899aabbccddeeff) :=
  ⟨by decide, by decide, by decide, by decide, differ_in_unused_byte, by decide +kernel⟩

theorem witness_DecipherCommand : klenLegal readyX1.KLEN = true ∧ (10 : Fin 15).val ≤ nrOf readyX1.KLEN ∧
    nrOf readyX1.KLEN < (11 : Fin 15).val ∧ klenLegal State.reset.KLEN = false ∧
    SameUsedKey readyX1 { readyX1 with KEY := readyX1.KEY.set 16 0xFF#8 } ∧
    (readyX1.KLEN = 16#8 ∧ readyX1.KEY = hexKey 0x000102030405060708090a0b0c0d0e0f00000000000000000000000000000000 ∧
      ({ readyX1 with S := hexBlock cipherX1 } : State).S = hexBlock 0x69c4e0d86a7b0430d8cdb78070b4c55a) :=
  ⟨by decide, by decide, by decide, by decide, differ_in_unused_byte, by decide +kernel⟩

theorem witness_CipherRoundTrip : (4 : Nat) ∈ [4, 6, 8] ∧ klenLegal (withKey 24#8 keyX1).KLEN = true := by decide

theorem witness_CipherEqualsStepCommands : klenLegal readyX1.KLEN = true ∧ klenLegal (withKey 32#8 keyX1).KLEN = true := by decide

theorem witness_ScheduleGivenUp : klenLegal expanded.KLEN = true ∧ expanded.RKV = true ∧ Instr.decipher ∈ [Instr.cipher, .decipher] := by
  decide

/-- A KEYEXPAND and a CIPHER that succeed, a DECIPHER that fails, and addresses at the edges of what the frame speaks of. -/
theorem witness_ScheduleCommandsFrame : (∃ t, exec .keyexpand readyX1 = .next t) ∧ (∃ t, exec .cipher readyX1 = .next t) ∧
    (∃ t, exec .decipher State.reset = .next t) ∧ nrOf readyX1.KLEN < (14 : Fin 15).val ∧
    ((locate 0x060#9).isErr = false ∧ (locate 0x060#9).isSchedule = false ∧ (locate 0x060#9).isState = false) ∧
    ((locate 0x0FF#9).isSchedule = false ∧ (locate 0x100#9).isSchedule = true ∧ (locate 0x1EF#9).isSchedule = true ∧
      (locate 0x1F0#9).isSchedule = false) :=
  ⟨⟨_, rfl⟩, ⟨_, rfl⟩, ⟨_, rfl⟩, by decide, by decide, by decide⟩

theorem witness_TraceCheckpoints : klenLegal readyX1.KLEN = true ∧ Instr.cipher ∈ [Instr.cipher, .decipher] ∧
    klenLegal State.reset.KLEN = false ∧
    Instr.mixcolumns ∈ [Instr.subbytes, .invsubbytes, .shiftrows, .invshiftrows, .mixcolumns, .invmixcolumns] := by decide

/-- A CIPHER with checkpoints, a traced step command that fails, and a command that is not traced. -/
theorem witness_TracePortPresents : (Instr.cipher ∈ [Instr.cipher, .decipher] ∧ (checkpoints .cipher readyX1).length = 41) ∧
    (Instr.addroundkey 3 ∉ [Instr.cipher, .decipher] ∧ checkpoints (.addroundkey 3) State.reset = [State.reset.S]) ∧
    (Instr.xtime ∉ [Instr.cipher, .decipher] ∧ checkpoints .xtime State.reset = []) := by decide +kernel

/-- The command of the byte `0x40` succeeds on the reset state; those of `0x10` and `0x65` fail. -/
theorem witness_ErrorsArePrecise : getNext (·.ERR) (hostWrite 0x061#9 0x40#8 State.reset) = some 0x00#8 ∧
    getNext (·.ERR) (hostWrite 0x061#9 0x10#8 State.reset) = some 0x01#8 ∧
    getNext (·.ERR) (hostWrite 0x061#9 0x65#8 State.reset) = some 0x04#8 ∧
    (0x060#9 ≠ 0x061#9 ∧ getNext (·.ERR) (hostWrite 0x060#9 0x65#8 State.reset) = some 0x00#8) ∧
    getNext (·.reads) (step { State.reset with host := [.read 0x1FF#9] }) = some [0x00#8] := by decide

/-- For each check a state and a command that fail it, and for each kind of command one that fails none. -/
theorem witness_OrderOfChecks : ScheduleCurrent State.reset ∧ ScheduleCurrent expanded ∧ decode 0x9F#8 = .illegal ∧
    (decode 0x20#8 = .command .keyexpand ∧ State.reset.KLEN.toNat ∉ [16, 24, 32]) ∧
    (decode 0x6F#8 = .command (.addroundkey 15) ∧ State.reset.RKV = false) ∧
    (decode 0x6B#8 = .command (.addroundkey 11) ∧ expanded.RKV = true ∧ expanded.KLEN.toNat / 4 + 6 < 11) ∧
    (decode 0x84#8 = .command (.gmul 4) ∧ (4 : Nat) ∉ [0x1, 0x2, 0x3, 0x9, 0xb, 0xd, 0xe]) ∧
    (decode 0x10#8 = .command .cipher ∧ expanded.KLEN.toNat ∈ [16, 24, 32]) ∧
    (decode 0x6A#8 = .command (.addroundkey 10) ∧ expanded.RKV = true ∧ 10 ≤ expanded.KLEN.toNat / 4 + 6) ∧
    (decode 0x8E#8 = .command (.gmul 0xe) ∧ 0xe ∈ [0x1, 0x2, 0x3, 0x9, 0xb, 0xd, 0xe]) :=
  ⟨reset_current, expanded_current, by decide⟩

/-- The last address of each window and the first after it. -/
theorem witness_AddressMap : locate 0x00F#9 = .sb 15 ∧ locate 0x010#9 = .sm 0 0 ∧ locate 0x01F#9 = .sm 3 3 ∧ locate 0x020#9 = .key 0 ∧
    locate 0x03F#9 = .key 31 ∧ locate 0x040#9 = .km 0 0 ∧ locate 0x05F#9 = .km 3 7 ∧ locate 0x060#9 = .klen ∧ locate 0x067#9 = .gfr ∧
    locate 0x068#9 = .reserved ∧ locate 0x0FF#9 = .reserved ∧ locate 0x100#9 = .rkb 0 0 ∧ locate 0x1EF#9 = .rkb 14 15 ∧
    locate 0x1F0#9 = .reserved ∧ locate 0x1FF#9 = .reserved ∧ (expanded.RKV = true ∧ (10 : Fin 15).val ≤ nrOf expanded.KLEN) := by
  decide

theorem witness_ReadsChangeNothing :
    (∀ a : Addr, ({ expanded with host := [.read a] } : State).resetDone = true ∧
      ({ expanded with host := [.read a] } : State).host = .read a :: []) := fun _ => ⟨rfl, rfl⟩

theorem witness_BlockThroughWindow : ∃ s : State, s.resetDone = true ∧
    s.host = (List.finRange 16).map (fun i => HostEvent.write (BitVec.ofNat 9 i.val) (BitVec.ofNat 8 (17 * i.val)))
      ++ (List.finRange 16).map (fun i => HostEvent.read (BitVec.ofNat 9 i.val)) ++ [] :=
  ⟨{ State.reset with host := _ }, rfl, rfl⟩

/-- An address for every clause, at the edges of the windows. -/
theorem witness_HostWriteFrame : (locate 0x060#9 ≠ .cmd ∧ (locate 0x060#9).cell = .klen) ∧ (locate 0x000#9).cell = .sb 0 ∧
    (locate 0x01F#9).cell = .sb 15 ∧ (locate 0x020#9).cell = .key 0 ∧ (locate 0x05F#9).cell = .key 31 ∧ (locate 0x062#9).cell = .err ∧
    (locate 0x066#9).cell = .gfa ∧ (locate 0x067#9).cell = .gfr ∧ (locate 0x068#9).cell = .reserved ∧
    (locate 0x100#9).cell = .rkb 0 0 ∧ (locate 0x1EF#9).cell = .rkb 14 15 ∧ (locate 0x1F0#9).cell = .reserved ∧
    (locate 0x01F#9).isSchedule = false ∧ (locate 0x060#9).cell ≠ .param := by decide

/-- The edges of the range that clears `RKV`, and a read. -/
theorem witness_KeyWritesClearSchedule :
    (∀ a ∈ [0x020#9, 0x03F#9, 0x040#9, 0x060#9], 0x020 ≤ a.toNat ∧ a.toNat ≤ 0x060 ∧ ∃ t, hostWrite a 0x55#8 expanded = .next t) ∧
    (∀ a ∈ [0x000#9, 0x01F#9, 0x062#9, 0x1FF#9], (a.toNat < 0x020 ∨ 0x062 ≤ a.toNat) ∧ ∃ t, hostWrite a 0x55#8 expanded = .next t) ∧
    (∃ t, step { expanded with host := [.read 0x020#9] } = .next t) := by
  refine ⟨?_, ?_, ⟨_, rfl⟩⟩ <;> simp only [List.forall_mem_cons, List.not_mem_nil, false_imp_iff, implies_true, and_true] <;>
    exact ⟨⟨by decide, by first | exact ⟨by decide, _, rfl⟩ | exact ⟨_, rfl⟩⟩, ⟨by decide, by first | exact ⟨by decide, _, rfl⟩ | exact ⟨_, rfl⟩⟩,
      ⟨by decide, by first | exact ⟨by decide, _, rfl⟩ | exact ⟨_, rfl⟩⟩, ⟨by decide, by first | exact ⟨by decide, _, rfl⟩ | exact ⟨_, rfl⟩⟩⟩

theorem witness_DerivedRegisters : (withKey 16#8 0).KLEN.toNat ∈ [16, 24, 32] ∧ (withKey 24#8 0).KLEN = 24#8 ∧ (withKey 32#8 0).KLEN = 32#8 ∧
    (withKey 20#8 0).KLEN.toNat ∉ [16, 24, 32] ∧ expanded.RKV = true ∧ (3 : Nat) ≤ 7 := by decide

theorem witness_StepRunsDecodedCommand : ({ State.reset with host := [.write 0x061#9 0x30#8] } : State).resetDone = true ∧
    ({ State.reset with host := [.write 0x061#9 0x30#8] } : State).host = .write 0x061#9 0x30#8 :: [] ∧
    decode 0x30#8 = .command .subbytes := by decide

theorem witness_StepServesHostInOrder : State.reset.host = [] ∧
    (({ State.reset with host := [.write 0x066#9 0x57#8] } : State).resetDone = true ∧
      ({ State.reset with host := [.write 0x066#9 0x57#8] } : State).host = .write 0x066#9 0x57#8 :: []) ∧
    (({ State.reset with resetDone := false, host := [.read 0x000#9] } : State).resetDone = false ∧ HostEvent.read 0x000#9 ≠ .reset) ∧
    (∃ t, step { State.reset with host := [.read 0x000#9] } = .next t) :=
  ⟨by decide, by decide, by decide, ⟨_, rfl⟩⟩

theorem witness_ResetEvent : ({ expanded with resetDone := false, host := [.reset, .read 0x062#9] } : State).host =
    .reset :: [.read 0x062#9] := rfl

theorem witness_AfterReset : Instr.decipher ∈ [Instr.cipher, .decipher, .keyexpand] ∧
    Instr.xtime ∈ [Instr.subbytes, .invsubbytes, .shiftrows, .invshiftrows, .mixcolumns, .invmixcolumns, .xtime] ∧
    (32#8 : Byte).toNat ∈ [16, 24, 32] := by decide

/-- A command that changes `S`, one that sets `RKV`, one that clears it, one that writes `GFR`; a data write that clears `RKV`. -/
theorem witness_WrittenByTable : (∃ t, exec .subbytes State.reset = .next t ∧ t.S ≠ State.reset.S) ∧
    (∃ t, exec .keyexpand readyX1 = .next t ∧ t.RKV ≠ readyX1.RKV ∧ t.RK ≠ readyX1.RK) ∧
    (∃ t, exec .cipher expanded = .next t ∧ t.RKV ≠ expanded.RKV) ∧
    (∃ t, exec .xtime { State.reset with GFA := 0x01#8 } = .next t ∧ t.GFR ≠ 0x00#8) ∧
    (locate 0x060#9 ≠ .cmd ∧ ∃ t, hostWrite 0x060#9 16#8 expanded = .next t ∧ t.RKV ≠ expanded.RKV) :=
  ⟨⟨_, rfl, by decide +kernel⟩, ⟨_, rfl, by decide +kernel⟩, ⟨_, rfl, by decide +kernel⟩, ⟨_, rfl, by decide +kernel⟩,
    by decide, ⟨_, rfl, by decide +kernel⟩⟩

/-- A step that sets `RKV`, and the four kinds of step that clear it. -/
theorem witness_OnlyTheseEventsChangeRkv :
    (∃ t, step { readyX1 with host := [.write 0x061#9 0x20#8] } = .next t ∧ readyX1.RKV = false ∧ t.RKV = true) ∧
    (∃ t, step { expanded with host := [.write 0x061#9 0x10#8] } = .next t ∧ expanded.RKV = true ∧ t.RKV = false) ∧
    (∃ t, step { expanded with host := [.write 0x061#9 0x11#8] } = .next t ∧ t.RKV = false) ∧
    (∃ t, step { expanded with host := [.write 0x060#9 16#8] } = .next t ∧ t.RKV = false) ∧
    (∃ t, step { expanded with host := [.reset] } = .next t ∧ t.RKV = false) :=
  ⟨⟨_, rfl, by decide +kernel⟩, ⟨_, rfl, by decide +kernel⟩, ⟨_, rfl, by decide +kernel⟩, ⟨_, rfl, by decide +kernel⟩,
    ⟨_, rfl, by decide +kernel⟩⟩

/-- States that differ in round key 11 of a 16-byte key's schedule, and in all of `RK` with `RKV = 0`; a step and a refusal. -/
theorem witness_HiddenStateUnobservable :
    SameVisible expanded { expanded with RK := expanded.RK.set 11 (constBlock 0xFF#8) } ∧
    expanded ≠ { expanded with RK := expanded.RK.set 11 (constBlock 0xFF#8) } ∧
    SameVisible State.reset { State.reset with RK := Vector.replicate 15 (constBlock 0xFF#8) } ∧
    (∃ t, step { expanded with host := [.read 0x1B0#9] } = .next t) ∧
    step { State.reset with resetDone := false, host := [.read 0x1B0#9] } = .refused .transactionBeforeReset := by
  refine ⟨?_, by decide +kernel, ?_, ⟨_, rfl⟩, rfl⟩ <;> unfold SameVisible <;> decide +kernel

theorem witness_StepKeepsInvariant :
    Inv { expanded with host := [.write 0x061#9 0x60#8] } ∧ expanded.RKV = true ∧
    ∃ t, step { expanded with host := [.write 0x061#9 0x60#8] } = .next t :=
  ⟨⟨expanded_current, by unfold ErrLegal; decide, rfl⟩, rfl, ⟨_, rfl⟩⟩

end Sys2Proof.Tests
end

section
/-! PROOFS about 00_scope.md: the legal key lengths and the parameters that follow from them. -/

namespace Sys2Proof.Machine

/-- The check of 10_state.md R30 in the numbers of 00_scope.md R6. -/
theorem klenLegal_iff_toNat_mem (k : Byte) : klenLegal k = true ↔ k.toNat ∈ [16, 24, 32] := by
  simp [klenLegal, ← BitVec.toNat_inj, or_assoc]

/-- 42_key_schedule.md R160: four words for each of the `Nr + 1` round keys. -/
theorem scheduleLength_nkOf (k : Byte) : scheduleLength (nkOf k) = 4 * (nrOf k + 1) := rfl

/-- Every legal key length is a row of the table of 00_scope.md R6. -/
theorem klenLegal_row {k : Byte} (h : klenLegal k = true) :
    (k.toNat, nkOf k, nrOf k, nrOf k + 1, scheduleLength (nkOf k)) ∈
      [(16, 4, 10, 11, 44), (24, 6, 12, 13, 52), (32, 8, 14, 15, 60)] := by
  rw [scheduleLength_nkOf]
  obtain ⟨hk, hnk, hnr⟩ | ⟨hk, hnk, hnr⟩ | ⟨hk, hnk, hnr⟩ := klenLegal_cases h
  · rw [hnk, hnr, hk]; decide
  · rw [hnk, hnr, hk]; decide
  · rw [hnk, hnr, hk]; decide

/-- Settles O6: the check in numbers, and one row for each of the three lengths it admits. -/
theorem keyLengthTable : Obligations.KeyLengthTable :=
  ⟨klenLegal_iff_toNat_mem, fun _ => klenLegal_row, rfl⟩

end Sys2Proof.Machine
end

section
/-! PROOFS about 10_state.md: what a command and a data write can do to the state, as one relation each. -/

namespace Sys2Proof.Machine

/-- The commands that replace `S` by a transform of it (41_round_transforms.md). -/
def TransformCommand (i : Instr) : Prop :=
  i ∈ [Instr.subbytes, .invsubbytes, .shiftrows, .invshiftrows, .mixcolumns, .invmixcolumns] ∨ ∃ n, i = .addroundkey n

/-- The effect of a command, with the commands that can have it: the refinement of `exec_cases` that the column "Written by" of
10_state.md R38 needs. The command is rejected, transforms `S`, expands the key, drives a whole CIPHER or DECIPHER, or multiplies. -/
def CommandEffect (s : State) (i : Instr) (t : State) : Prop :=
  (∃ e, t = raiseErr e s) ∨
  (TransformCommand i ∧ ∃ f, t = transformS f s) ∨
  (i = .keyexpand ∧ klenLegal s.KLEN = true ∧ t = done ((loadSchedule s).withRKV true)) ∨
  ((i = .cipher ∨ i = .decipher) ∧ klenLegal s.KLEN = true ∧ ∃ m, t = done (((loadSchedule s).withS m).withRKV false)) ∨
  ((i = .xtime ∨ ∃ c, i = .gmul c) ∧ ∃ g, t = done (s.withGFR g))

section
variable {s : State} {i : Instr}

theorem CommandEffect.rejected (e : ErrCode) : CommandEffect s i (raiseErr e s) := .inl ⟨e, rfl⟩

theorem CommandEffect.transformed (hi : TransformCommand i) (f : Block → Block) : CommandEffect s i (transformS f s) :=
  .inr (.inl ⟨hi, f, rfl⟩)

theorem CommandEffect.expanded (hk : klenLegal s.KLEN = true) :
    CommandEffect s .keyexpand (done ((loadSchedule s).withRKV true)) :=
  .inr (.inr (.inl ⟨rfl, hk, rfl⟩))

theorem CommandEffect.driven (hi : i = .cipher ∨ i = .decipher) (hk : klenLegal s.KLEN = true) (m : Block) :
    CommandEffect s i (done (((loadSchedule s).withS m).withRKV false)) :=
  .inr (.inr (.inr (.inl ⟨hi, hk, m, rfl⟩)))

theorem CommandEffect.multiplied (hi : i = .xtime ∨ ∃ c, i = .gmul c) (g : Byte) : CommandEffect s i (done (s.withGFR g)) :=
  .inr (.inr (.inr (.inr ⟨hi, g, rfl⟩)))

end

section
variable (s : State)
@[simp] theorem loadSchedule_S : (loadSchedule s).S = s.S := by rw [loadSchedule, State.withRK_S]
@[simp] theorem loadSchedule_KEY : (loadSchedule s).KEY = s.KEY := by rw [loadSchedule, State.withRK_KEY]
@[simp] theorem loadSchedule_KLEN : (loadSchedule s).KLEN = s.KLEN := by rw [loadSchedule, State.withRK_KLEN]
@[simp] theorem loadSchedule_RK :
    (loadSchedule s).RK = storeSchedule s.RK (keyExpansion s.KEY (nkOf s.KLEN)) (nrOf s.KLEN) := by
  rw [loadSchedule, State.withRK_RK]
@[simp] theorem loadSchedule_RKV : (loadSchedule s).RKV = s.RKV := by rw [loadSchedule, State.withRK_RKV]
@[simp] theorem loadSchedule_GFA : (loadSchedule s).GFA = s.GFA := by rw [loadSchedule, State.withRK_GFA]
@[simp] theorem loadSchedule_GFR : (loadSchedule s).GFR = s.GFR := by rw [loadSchedule, State.withRK_GFR]
@[simp] theorem loadSchedule_ERR : (loadSchedule s).ERR = s.ERR := by rw [loadSchedule, State.withRK_ERR]
@[simp] theorem loadSchedule_resetDone : (loadSchedule s).resetDone = s.resetDone := by rw [loadSchedule, State.withRK_resetDone]
end

theorem runDriver_effect (f : Block → Vector Byte 32 → Nat → Block) (s : State) {i : Instr} (hi : i = .cipher ∨ i = .decipher) :
    CommandEffect s i (runDriver f s) := by
  unfold runDriver
  split
  · next hk => exact .driven hi hk _
  · exact .rejected .eKeylen

theorem execKeyexpand_effect {s t : State} (h : execKeyexpand s = .next t) : CommandEffect s .keyexpand t := by
  unfold execKeyexpand at h
  split at h
  · next hk => cases h; exact .expanded hk
  · cases h; exact .rejected .eKeylen

theorem execAddroundkey_effect {n : Nat} {s t : State} (h : execAddroundkey n s = .next t) :
    CommandEffect s (.addroundkey n) t := by
  unfold execAddroundkey at h
  split at h
  · split at h
    · cases h; exact .rejected .eArg
    · cases h; exact .transformed (.inr ⟨n, rfl⟩) _
  · cases h; exact .rejected .eNokey

theorem execGmul_effect {c : Nat} {s t : State} (h : execGmul c s = .next t) : CommandEffect s (.gmul c) t := by
  unfold execGmul at h
  split at h
  · cases h; exact .rejected .eArg
  · cases h; exact .multiplied (.inr ⟨c, rfl⟩) _

/-- Everything a command can do, and which command can do it. -/
theorem exec_effect {i : Instr} {s t : State} (h : exec i s = .next t) : CommandEffect s i t := by
  cases i with
  | cipher => cases h; exact runDriver_effect cipher s (.inl rfl)
  | decipher => cases h; exact runDriver_effect decipher s (.inr rfl)
  | keyexpand => exact execKeyexpand_effect h
  | subbytes | invsubbytes | shiftrows | invshiftrows | mixcolumns | invmixcolumns =>
    cases h; exact .transformed (.inl (by simp)) _
  | addroundkey n => exact execAddroundkey_effect h
  | xtime => cases h; exact .multiplied (.inl rfl) _
  | gmul c => exact execGmul_effect h

/-- What a write to `CMD` does: it reports an illegal byte, or runs the command the byte stands for. -/
theorem runCommand_cases {v : Byte} {s t : State} (h : runCommand v s = .next t) :
    t = raiseErr .eIllcmd s ∨ ∃ i, decode v = .command i ∧ CommandEffect s i t := by
  unfold runCommand at h
  split at h
  · cases h; exact .inl rfl
  · next i hi => exact .inr ⟨i, hi, exec_effect h⟩

/-- The locations whose writes give up the key schedule: the two windows of `KEY`, and `KLEN` (20_memory.md R71). -/
def Location.isKey : Location → Bool
  | .key _ => true
  | .km _ _ => true
  | .klen => true
  | _ => false

/-- The effect of a write of the host to a location other than `CMD` (20_memory.md R62, R63, R71): none, a byte of `S`, the key or
its length with the schedule given up, or the operand `GFA`. -/
def StoreEffect (v : Byte) (s : State) (l : Location) (t : State) : Prop :=
  t = s ∨ (∃ m, t = s.withS m) ∨ (l.isKey = true ∧ ((∃ i, t = writeKeyByte i v s) ∨ t = writeKlen v s)) ∨ t = s.withGFA v

/-- Everything a data write can do, and which location can do it. -/
theorem writeLocation_effect {v : Byte} {s t : State} {l : Location} (hl : l ≠ .cmd) (h : writeLocation v s l = .next t) :
    StoreEffect v s l t := by
  cases l with
  | sb i => cases h; exact .inr (.inl ⟨_, rfl⟩)
  | sm r c => cases h; exact .inr (.inl ⟨_, rfl⟩)
  | key i => cases h; exact .inr (.inr (.inl ⟨rfl, .inl ⟨i, rfl⟩⟩))
  | km r c => cases h; exact .inr (.inr (.inl ⟨rfl, .inl ⟨keyIndex r c, rfl⟩⟩))
  | klen => cases h; exact .inr (.inr (.inl ⟨rfl, .inr rfl⟩))
  | cmd => exact absurd rfl hl
  | gfa => cases h; exact .inr (.inr (.inr rfl))
  | err | status | param | rkcnt | gfr | rkb n i | reserved => cases h; exact .inl rfl

/-- Of the control registers only `KLEN` and `CMD` can change `RKV`; this is where they are (20_memory.md R63). -/
theorem address_of_locateControl (a : Nat) :
    ((locateControl a).isKey = true → a = 0x060) ∧ (locateControl a = .cmd → a = 0x061) := by
  unfold locateControl
  split <;> simp [Location.isKey]

/-- The windows `KEY`, `KM` and the register `KLEN` are the addresses 0x020 to 0x060 (20_memory.md R63). -/
theorem toNat_of_isKey_locate {a : Addr} (h : (locate a).isKey = true) : 0x020 ≤ a.toNat ∧ a.toNat ≤ 0x060 := by
  unfold locate at h
  dsimp only at h
  split_ifs at h
  · cases h
  · cases h
  · omega
  · omega
  · cases h
  · have := (address_of_locateControl _).1 h; omega

/-- Only 0x061 is the command register (20_memory.md R63). -/
theorem eq_of_locate_eq_cmd {a : Addr} (h : locate a = .cmd) : a = 0x061#9 := by
  unfold locate at h
  dsimp only at h
  split_ifs at h
  exact BitVec.eq_of_toNat_eq ((address_of_locateControl _).2 h)

/-- The decoder reads a command from no byte but the command's own. -/
theorem encode_eq_of_decode {v : Byte} {i : Instr} (h : decode v = .command i) : encode i = v := by
  have hall : ∀ v : Byte, ∀ j ∈ (decode v).toOption, encode j = v := by decide
  exact hall v i (by rw [h]; rfl)

end Sys2Proof.Machine
end

section
/-! PROOFS about 10_state.md R39: the hidden bytes of `RK` reach no read, no command and no step. -/

namespace Sys2Proof.Machine

/-- `rk` holds the round keys that `s` shows: `RK[0..Nr]` when `RKV = 1`, none when `RKV = 0`. -/
def ShowsKeys (s : State) (rk : Vector Block 15) : Prop :=
  s.RKV = true → ∀ n : Fin 15, n.val ≤ nrOf s.KLEN → s.RK[n] = rk[n]

/-- Replacing `RK` cannot be seen when the visible round keys stay. -/
theorem sameVisible_withRK {s : State} {rk : Vector Block 15} (h : ShowsKeys s rk) : SameVisible s (s.withRK rk) := ⟨rfl, h⟩

/-- The only way for two states to look alike: one is the other with another `RK` of the same visible round keys. -/
theorem SameVisible.exists_withRK {s t : State} (h : SameVisible s t) : ∃ rk, t = s.withRK rk ∧ ShowsKeys s rk :=
  ⟨t.RK, h⟩

theorem SameVisible.refl (s : State) : SameVisible s s := ⟨rfl, fun _ _ _ => rfl⟩

/-- With `RKV = 0` the whole of `RK` is hidden. -/
theorem sameVisible_of_RKV_false {s : State} (h : s.RKV = false) (rk : Vector Block 15) : SameVisible s (s.withRK rk) :=
  sameVisible_withRK fun hv => by simp [h] at hv

/-- An operation that neither reads nor writes `RK` and keeps `RKV` and `KLEN` shows as little of `RK` as before. -/
theorem SameVisible.update {s t : State} (h : SameVisible s t) (f : State → State)
    (hf : ∀ rk, f (s.withRK rk) = (f s).withRK rk) (hRK : (f s).RK = s.RK) (hRKV : (f s).RKV = s.RKV)
    (hKLEN : (f s).KLEN = s.KLEN) : SameVisible (f s) (f t) := by
  obtain ⟨rk, rfl, hk⟩ := h.exists_withRK
  rw [hf]
  apply sameVisible_withRK
  rwa [ShowsKeys, hRK, hRKV, hKLEN]

/-- An operation that does not read `RK` and clears `RKV` hides all of it. -/
theorem SameVisible.conceal {s t : State} (h : SameVisible s t) (f : State → State)
    (hf : ∀ rk, f (s.withRK rk) = (f s).withRK rk) (hRKV : (f s).RKV = false) : SameVisible (f s) (f t) := by
  obtain ⟨rk, rfl, -⟩ := h.exists_withRK
  rw [hf]
  exact sameVisible_of_RKV_false hRKV rk

theorem SameVisible.raiseErr (e : ErrCode) {s t : State} (h : SameVisible s t) : SameVisible (raiseErr e s) (raiseErr e t) :=
  h.update (Machine.raiseErr e) (fun _ => rfl) rfl rfl rfl

theorem SameVisible.transformS (f : Block → Block) {s t : State} (h : SameVisible s t) :
    SameVisible (transformS f s) (transformS f t) :=
  h.update (Machine.transformS f) (fun _ => rfl) rfl rfl rfl

theorem SameVisible.updateS (f : Block → Block) {s t : State} (h : SameVisible s t) :
    SameVisible (s.withS (f s.S)) (t.withS (f t.S)) :=
  h.update (fun s => s.withS (f s.S)) (fun _ => rfl) rfl rfl rfl

/-- XTIME and GMUL read `GFA` and write `GFR`. -/
theorem SameVisible.updateGFR (f : Byte → Byte) {s t : State} (h : SameVisible s t) :
    SameVisible (done (s.withGFR (f s.GFA))) (done (t.withGFR (f t.GFA))) :=
  h.update (fun s => done (s.withGFR (f s.GFA))) (fun _ => rfl) rfl rfl rfl

/-- Two results an observer cannot tell apart: next states that look alike, or the same refusal. -/
def SameOutcome : Result → Result → Prop
  | .next s, .next t => SameVisible s t
  | .refused q, .refused r => q = r
  | _, _ => False

theorem SameOutcome.next {s t : State} (h : SameVisible s t) : SameOutcome (.next s) (.next t) := h

theorem SameOutcome.refused (r : Refusal) : SameOutcome (.refused r) (.refused r) := rfl

theorem SameOutcome.next_left {s : State} {r : Result} (h : SameOutcome (.next s) r) : ∃ t, r = .next t ∧ SameVisible s t := by
  cases r with
  | next t => exact ⟨t, rfl, h⟩
  | fault | refused => exact h.elim

theorem SameOutcome.refused_left {q : Refusal} {r : Result} (h : SameOutcome (.refused q) r) : r = .refused q := by
  cases r with
  | refused p => exact congrArg _ (Eq.symm h)
  | next | fault => exact h.elim

/-- ADDROUNDKEY with `RKV = 1` selects a visible round key, or none. -/
theorem SameVisible.selectRoundKey_eq {s t : State} (h : SameVisible s t) (hv : s.RKV = true) (n : Nat) :
    selectRoundKey t n = selectRoundKey s n := by
  obtain ⟨rk, rfl, hk⟩ := h.exists_withRK
  by_cases hn : n ≤ nrOf s.KLEN ∧ n < 15
  · obtain ⟨hnr, h15⟩ := hn
    have hkey : s.RK[n] = rk[n] := hk hv ⟨n, h15⟩ hnr
    rw [selectRoundKey_eq_some hnr h15, selectRoundKey_eq_some (s := s.withRK rk) hnr h15, State.withRK_RK, hkey]
  · have hnone : nrOf s.KLEN < n ∨ 15 ≤ n := by omega
    rw [selectRoundKey_eq_none hnone, selectRoundKey_eq_none (s := s.withRK rk) hnone]

/-- A read shows a byte of `RK` only where it is visible. -/
theorem SameVisible.hostRead_eq {s t : State} (h : SameVisible s t) (a : Addr) : hostRead s a = hostRead t a := by
  obtain ⟨rk, rfl, hk⟩ := h.exists_withRK
  unfold hostRead
  cases locate a with
  | rkb n i =>
    simp only [readLocation, readRoundKeyByte, State.withRK_RKV, State.withRK_KLEN, State.withRK_RK]
    exact if_ctx_congr Iff.rfl (fun ⟨hv, hn⟩ => by rw [hk hv n hn]) fun _ => rfl
  | _ => rfl

/-- KEYEXPAND overwrites the whole visible part of `RK`. -/
theorem SameVisible.execKeyexpand {s t : State} (h : SameVisible s t) : SameOutcome (execKeyexpand s) (execKeyexpand t) := by
  obtain ⟨rk, rfl, -⟩ := h.exists_withRK
  cases hk : klenLegal s.KLEN with
  | false => rw [execKeyexpand_illegal hk, execKeyexpand_illegal (s := s.withRK rk) hk]; exact .next (h.raiseErr .eKeylen)
  | true =>
    rw [execKeyexpand_legal hk, execKeyexpand_legal (s := s.withRK rk) hk]
    refine .next (sameVisible_withRK (rk := storeSchedule rk _ _) fun _ n hn => ?_)
    simp [show n.val ≤ nrOf s.KLEN from hn]

/-- CIPHER and DECIPHER read no byte of `RK` and leave all of it hidden. -/
theorem SameVisible.runDriver (f : Block → Vector Byte 32 → Nat → Block) {s t : State} (h : SameVisible s t) :
    SameVisible (runDriver f s) (runDriver f t) := by
  obtain ⟨rk, rfl, -⟩ := h.exists_withRK
  cases hk : klenLegal s.KLEN with
  | false => rw [runDriver_illegal f hk, runDriver_illegal f (s := s.withRK rk) hk]; exact h.raiseErr .eKeylen
  | true => rw [runDriver_legal f hk, runDriver_legal f (s := s.withRK rk) hk]; exact sameVisible_of_RKV_false rfl _

theorem SameVisible.execAddroundkey (n : Nat) {s t : State} (h : SameVisible s t) :
    SameOutcome (execAddroundkey n s) (execAddroundkey n t) := by
  have hRKV : t.RKV = s.RKV := by obtain ⟨rk, rfl, -⟩ := h.exists_withRK; rfl
  cases hv : s.RKV with
  | false =>
    rw [execAddroundkey_noKey n hv, execAddroundkey_noKey n (hRKV.trans hv)]
    exact .next (h.raiseErr .eNokey)
  | true =>
    have hsel := h.selectRoundKey_eq hv n
    cases hn : selectRoundKey s n with
    | none =>
      rw [execAddroundkey_badIndex hv hn, execAddroundkey_badIndex (hRKV.trans hv) (hsel.trans hn)]
      exact .next (h.raiseErr .eArg)
    | some k =>
      rw [execAddroundkey_ok hv hn, execAddroundkey_ok (hRKV.trans hv) (hsel.trans hn)]
      exact .next (h.transformS fun m => addRoundKey m k)

theorem SameVisible.execGmul (c : Nat) {s t : State} (h : SameVisible s t) : SameOutcome (execGmul c s) (execGmul c t) := by
  cases hc : selectConst c with
  | none => rw [execGmul_bad hc, execGmul_bad hc]; exact .next (h.raiseErr .eArg)
  | some k =>
    rw [execGmul_ok hc, execGmul_ok hc]
    exact .next (h.updateGFR fun a => gmul a k)

theorem SameVisible.exec (i : Instr) {s t : State} (h : SameVisible s t) : SameOutcome (exec i s) (exec i t) := by
  cases i with
  | cipher => exact .next (h.runDriver cipher)
  | decipher => exact .next (h.runDriver decipher)
  | keyexpand => exact h.execKeyexpand
  | subbytes | invsubbytes | shiftrows | invshiftrows | mixcolumns | invmixcolumns => exact .next (h.transformS _)
  | addroundkey n => exact h.execAddroundkey n
  | xtime => exact .next (h.updateGFR Machine.xtime)
  | gmul c => exact h.execGmul c

theorem SameVisible.runCommand (v : Byte) {s t : State} (h : SameVisible s t) : SameOutcome (runCommand v s) (runCommand v t) := by
  cases hd : decode v with
  | illegal => rw [runCommand_illegal hd, runCommand_illegal hd]; exact .next (h.raiseErr .eIllcmd)
  | command i => rw [runCommand_command hd, runCommand_command hd]; exact h.exec i

theorem SameVisible.writeLocation (v : Byte) (l : Location) {s t : State} (h : SameVisible s t) :
    SameOutcome (writeLocation v s l) (writeLocation v t l) := by
  cases l with
  | sb i => exact .next (h.updateS fun m => setAt m (rowOf i) (colOf i) v)
  | sm r c => exact .next (h.updateS fun m => setAt m r c v)
  | key i => exact .next (h.conceal (writeKeyByte i v) (fun _ => rfl) rfl)
  | km r c => exact .next (h.conceal (writeKeyByte (keyIndex r c) v) (fun _ => rfl) rfl)
  | klen => exact .next (h.conceal (writeKlen v) (fun _ => rfl) rfl)
  | cmd => exact h.runCommand v
  | gfa => exact .next (h.update (·.withGFA v) (fun _ => rfl) rfl rfl rfl)
  | err | status | param | rkcnt | gfr | rkb n i | reserved => exact .next h

theorem SameVisible.takeReset {s t : State} (h : SameVisible s t) : SameVisible (takeReset s) (takeReset t) := by
  obtain ⟨rk, rfl, -⟩ := h.exists_withRK
  exact .refl _

theorem SameVisible.serve (e : HostEvent) {s t : State} (h : SameVisible s t) : SameOutcome (serve e s) (serve e t) := by
  have hdone : t.resetDone = s.resetDone := by obtain ⟨rk, rfl, -⟩ := h.exists_withRK; rfl
  have hreads : t.reads = s.reads := by obtain ⟨rk, rfl, -⟩ := h.exists_withRK; rfl
  cases e with
  | reset => exact .next h.takeReset
  | read a =>
    simp only [Machine.serve, hdone, hreads, ← h.hostRead_eq a]
    split
    · exact .next (h.update (·.withReads (hostRead s a :: s.reads)) (fun _ => rfl) rfl rfl rfl)
    · exact .refused _
  | write a v =>
    simp only [Machine.serve, hdone]
    split
    · exact h.writeLocation v (locate a)
    · exact .refused _

/-- The unwinding theorem: whatever the host does next, what was hidden stays hidden. -/
theorem SameVisible.step {s t : State} (h : SameVisible s t) : SameOutcome (step s) (step t) := by
  have hhost : t.host = s.host := by obtain ⟨rk, rfl, -⟩ := h.exists_withRK; rfl
  cases hs : s.host with
  | nil => rw [step_nil hs, step_nil (hhost.trans hs)]; exact .next h
  | cons e rest =>
    rw [step_cons hs, step_cons (hhost.trans hs)]
    have hrest : SameVisible (s.withHost rest) (t.withHost rest) :=
      h.update (·.withHost rest) (fun _ => rfl) rfl rfl rfl
    exact hrest.serve e

/-- Settles O57: reads depend on the visible round keys only, and each step keeps states alike that look alike. -/
theorem hiddenStateUnobservable : Obligations.HiddenStateUnobservable := by
  intro s t h
  refine ⟨h.hostRead_eq, fun s' hs => ?_, fun r hr => ?_⟩
  · have hstep := h.step
    rw [hs] at hstep
    exact hstep.next_left
  · have hstep := h.step
    rw [hr] at hstep
    exact hstep.refused_left

end Sys2Proof.Machine
end

section
/-! PROOFS about 10_state.md R27: the invariant of the machine, at reset and along every step. -/

namespace Sys2Proof.Machine

/-- `W[j]` of a stored schedule is word `j` of it (10_state.md R25, 42_key_schedule.md R165). -/
theorem storeWord_storeSchedule (rk : Vector Block 15) (w : List Word) {nr : Nat} {j : Fin 60} (h : j.val < 4 * (nr + 1)) :
    storeWord (storeSchedule rk w nr) j = wordAt w j.val := by
  have hn : j.val / 4 ≤ nr := by omega
  rw [storeWord, getElem_storeSchedule, if_pos hn, col_roundKeyOf, Nat.div_add_mod]

/-- With `RKV = 0` there is no schedule to be out of date. -/
theorem scheduleCurrent_of_RKV_false {s : State} (h : s.RKV = false) : ScheduleCurrent s := fun hv => by simp [h] at hv

/-- The schedule stays current as long as the key, its length, the store and the flag stay. -/
theorem ScheduleCurrent.of_eq {s t : State} (h : ScheduleCurrent s) (hKEY : t.KEY = s.KEY) (hKLEN : t.KLEN = s.KLEN)
    (hRK : t.RK = s.RK) (hRKV : t.RKV = s.RKV) : ScheduleCurrent t := by
  rwa [ScheduleCurrent, hKEY, hKLEN, hRK, hRKV]

/-- KEYEXPAND makes the schedule current. -/
theorem scheduleCurrent_loadSchedule {s : State} (hk : klenLegal s.KLEN = true) :
    ScheduleCurrent ((loadSchedule s).withRKV true) := by
  intro _
  simp only [State.withRKV_KLEN, State.withRKV_KEY, State.withRKV_RK, loadSchedule_KLEN, loadSchedule_KEY, loadSchedule_RK]
  exact ⟨hk, fun _ hj => storeWord_storeSchedule s.RK _ hj⟩

theorem errCode_mem (e : ErrCode) : errCode e ∈ [0x00#8, 0x01#8, 0x02#8, 0x03#8, 0x04#8] := by
  cases e <;> decide

theorem errLegal_done (s : State) : ErrLegal (done s) := List.mem_cons_self

theorem inv_raiseErr {s : State} (h : Inv s) (e : ErrCode) : Inv (raiseErr e s) := by
  obtain ⟨hsched, -, hreset⟩ := h
  exact ⟨hsched.of_eq rfl rfl rfl rfl, errCode_mem e, hreset⟩

/-- A command that succeeds keeps the invariant when it leaves the schedule current. -/
theorem inv_done {s : State} (hsched : ScheduleCurrent s) (hreset : s.resetDone = true) : Inv (done s) :=
  ⟨hsched.of_eq rfl rfl rfl rfl, errLegal_done s, hreset⟩

theorem CommandEffect.inv {i : Instr} {s t : State} (he : CommandEffect s i t) (h : Inv s) : Inv t := by
  obtain ⟨hsched, -, hreset⟩ := id h
  obtain ⟨e, rfl⟩ | ⟨-, f, rfl⟩ | ⟨-, hk, rfl⟩ | ⟨-, -, m, rfl⟩ | ⟨-, g, rfl⟩ := he
  · exact inv_raiseErr h e
  · exact inv_done (hsched.of_eq rfl rfl rfl rfl) hreset
  · exact inv_done (scheduleCurrent_loadSchedule hk) (by simpa using hreset)
  · exact inv_done (scheduleCurrent_of_RKV_false (by simp)) (by simpa using hreset)
  · exact inv_done (hsched.of_eq rfl rfl rfl rfl) hreset

theorem inv_runCommand {v : Byte} {s t : State} (h : Inv s) (ht : runCommand v s = .next t) : Inv t := by
  obtain rfl | ⟨i, -, he⟩ := runCommand_cases ht
  · exact inv_raiseErr h .eIllcmd
  · exact he.inv h

theorem StoreEffect.inv {v : Byte} {l : Location} {s t : State} (he : StoreEffect v s l t) (h : Inv s) : Inv t := by
  obtain ⟨hsched, herr, hreset⟩ := id h
  obtain rfl | ⟨m, rfl⟩ | ⟨-, ⟨i, rfl⟩ | rfl⟩ | rfl := he
  · exact h
  · exact ⟨hsched.of_eq rfl rfl rfl rfl, herr, hreset⟩
  · exact ⟨scheduleCurrent_of_RKV_false rfl, herr, hreset⟩
  · exact ⟨scheduleCurrent_of_RKV_false rfl, herr, hreset⟩
  · exact ⟨hsched.of_eq rfl rfl rfl rfl, herr, hreset⟩

theorem inv_hostWrite {a : Addr} {v : Byte} {s t : State} (h : Inv s) (ht : hostWrite a v s = .next t) : Inv t := by
  by_cases hl : locate a = .cmd
  · rw [hostWrite, hl] at ht
    exact inv_runCommand h ht
  · exact (writeLocation_effect hl ht).inv h

theorem inv_takeReset (s : State) : Inv (takeReset s) := ⟨scheduleCurrent_of_RKV_false rfl, List.mem_cons_self, rfl⟩

/-- The host's lists do not enter the invariant. -/
theorem Inv.withHost {s : State} (h : Inv s) (l : List HostEvent) : Inv (s.withHost l) := h

theorem Inv.withReads {s : State} (h : Inv s) (l : List Byte) : Inv (s.withReads l) := h

/-- Settles O58: a step is idle, a reset, a read or a write, and each keeps the invariant. -/
theorem stepKeepsInvariant : Obligations.StepKeepsInvariant := by
  intro s t h ht
  obtain ⟨-, rfl⟩ | ⟨e, rest, -, ⟨-, rfl⟩ | ⟨a, -, -, rfl⟩ | ⟨a, v, -, -, hw⟩⟩ := step_cases ht
  · exact h
  · exact inv_takeReset _
  · exact (h.withHost rest).withReads _
  · exact inv_hostWrite (h.withHost rest) hw

/-- Settles O59: the reset state of a host with any script is what a reset event leaves. -/
theorem invariantAtReset : Obligations.InvariantAtReset := fun script => inv_takeReset (State.reset.withHost script)

end Sys2Proof.Machine
end

section
/-! PROOFS about 10_state.md R26 and R38: which events write which register. -/

namespace Sys2Proof.Machine

/-- The column "Written by" of 10_state.md R38 for the commands. -/
theorem CommandEffect.writes {i : Instr} {s t : State} (he : CommandEffect s i t) :
    t.KEY = s.KEY ∧ t.KLEN = s.KLEN ∧ t.GFA = s.GFA ∧
    (t.S ≠ s.S → i ∈ [Instr.subbytes, .invsubbytes, .shiftrows, .invshiftrows, .mixcolumns, .invmixcolumns, .cipher, .decipher] ∨
      ∃ n, i = .addroundkey n) ∧
    (t.RK ≠ s.RK → i ∈ [Instr.keyexpand, .cipher, .decipher]) ∧
    (t.RKV ≠ s.RKV → (i = .keyexpand ∧ t.RKV = true) ∨ (i ∈ [Instr.cipher, .decipher] ∧ t.RKV = false)) ∧
    (t.GFR ≠ s.GFR → i = .xtime ∨ ∃ c, i = .gmul c) := by
  obtain ⟨e, rfl⟩ | ⟨hi, f, rfl⟩ | ⟨rfl, -, rfl⟩ | ⟨hi, -, m, rfl⟩ | ⟨hi, g, rfl⟩ := he
  · simp
  · exact ⟨rfl, rfl, rfl, fun _ => hi.imp_left (List.mem_append_left [Instr.cipher, .decipher]), fun h => absurd rfl h,
      fun h => absurd rfl h, fun h => absurd rfl h⟩
  · simp
  · obtain rfl | rfl := hi
    · simp
    · simp
  · simp [hi]

/-- The same column for the data writes. -/
theorem StoreEffect.writes {v : Byte} {l : Location} {s t : State} (he : StoreEffect v s l t) :
    t.RK = s.RK ∧ t.GFR = s.GFR ∧ t.ERR = s.ERR ∧ (t.RKV ≠ s.RKV → t.RKV = false ∧ l.isKey = true) := by
  obtain rfl | ⟨m, rfl⟩ | ⟨hl, ⟨i, rfl⟩ | rfl⟩ | rfl := he
  · exact ⟨rfl, rfl, rfl, fun h => absurd rfl h⟩
  · exact ⟨rfl, rfl, rfl, fun h => absurd rfl h⟩
  · exact ⟨rfl, rfl, rfl, fun _ => ⟨rfl, hl⟩⟩
  · exact ⟨rfl, rfl, rfl, fun _ => ⟨rfl, hl⟩⟩
  · exact ⟨rfl, rfl, rfl, fun h => absurd rfl h⟩

/-- Settles O55: the effects of commands and of data writes, register by register. -/
theorem writtenByTable : Obligations.WrittenByTable := by
  refine ⟨fun i s t h => (exec_effect h).writes, fun a v s t ha h => ?_⟩
  obtain ⟨hRK, hGFR, hERR, hRKV⟩ := (writeLocation_effect ha h).writes
  exact ⟨hRK, hGFR, hERR, fun hne => (hRKV hne).1⟩

/-- The writes of the host that leave a changed `RKV`, by the value they leave in it (10_state.md R26). -/
def RkvWrite (a : Addr) (v : Byte) : Bool → Prop
  | true => a = 0x061#9 ∧ v = 0x20#8
  | false => (a = 0x061#9 ∧ (v = 0x10#8 ∨ v = 0x11#8)) ∨ (0x020 ≤ a.toNat ∧ a.toNat ≤ 0x060)

theorem rkvWrite_of_runCommand {v : Byte} {s t : State} (h : runCommand v s = .next t) (hne : t.RKV ≠ s.RKV) :
    RkvWrite 0x061#9 v t.RKV := by
  obtain rfl | ⟨i, hi, he⟩ := runCommand_cases h
  · exact absurd rfl hne
  · have hv := (encode_eq_of_decode hi).symm
    obtain ⟨-, -, -, -, -, hRKV, -⟩ := he.writes
    obtain ⟨rfl, ht⟩ | ⟨hmem, ht⟩ := hRKV hne
    · rw [ht]; exact ⟨rfl, hv⟩
    · rw [ht]
      obtain rfl | rfl : i = .cipher ∨ i = .decipher := by simpa using hmem
      · exact .inl ⟨rfl, .inl hv⟩
      · exact .inl ⟨rfl, .inr hv⟩

theorem rkvWrite_of_hostWrite {a : Addr} {v : Byte} {s t : State} (h : hostWrite a v s = .next t) (hne : t.RKV ≠ s.RKV) :
    RkvWrite a v t.RKV := by
  by_cases hl : locate a = .cmd
  · obtain rfl := eq_of_locate_eq_cmd hl
    exact rkvWrite_of_runCommand h hne
  · obtain ⟨-, -, -, hRKV⟩ := (writeLocation_effect hl h).writes
    obtain ⟨ht, hkey⟩ := hRKV hne
    obtain ⟨hlo, hhi⟩ := toNat_of_isKey_locate hkey
    rw [ht]
    exact .inr ⟨hlo, hhi⟩

/-- A step that changes `RKV` serves a reset, which clears it, or one of those writes. -/
theorem event_of_step_changes_RKV {s t : State} (h : step s = .next t) (hne : t.RKV ≠ s.RKV) :
    (s.host.head? = some .reset ∧ t.RKV = false) ∨ ∃ a v, s.host.head? = some (.write a v) ∧ RkvWrite a v t.RKV := by
  obtain ⟨-, rfl⟩ | ⟨e, rest, hh, ⟨rfl, rfl⟩ | ⟨a, -, -, rfl⟩ | ⟨a, v, rfl, -, hw⟩⟩ := step_cases h
  · exact absurd rfl hne
  · exact .inl ⟨by rw [hh]; rfl, rfl⟩
  · exact absurd rfl hne
  · exact .inr ⟨a, v, by rw [hh]; rfl, rkvWrite_of_hostWrite hw hne⟩

/-- Settles O56: of the events that change `RKV`, one sets it and the others clear it. -/
theorem onlyTheseEventsChangeRkv : Obligations.OnlyTheseEventsChangeRkv := by
  refine ⟨fun s t h hs ht => ?_, fun s t h hs ht => ?_⟩
  · have hevent := event_of_step_changes_RKV h (by simp [hs, ht])
    rw [ht] at hevent
    obtain ⟨-, hclear⟩ | ⟨a, v, hh, rfl, rfl⟩ := hevent
    · cases hclear
    · exact hh
  · have hevent := event_of_step_changes_RKV h (by simp [hs, ht])
    rw [ht] at hevent
    obtain ⟨hh, -⟩ | ⟨a, v, hh, ⟨rfl, rfl | rfl⟩ | ⟨hlo, hhi⟩⟩ := hevent
    · exact .inl hh
    · exact .inr (.inl hh)
    · exact .inr (.inr (.inl hh))
    · exact .inr (.inr (.inr ⟨a, v, hh, hlo, hhi⟩))

end Sys2Proof.Machine
end

section
/-! PROOFS about 10_state.md R40 to R43: the tables of the core. -/

namespace Sys2Proof.Machine

@[simp] theorem INVSBOX_SBOX (b : Byte) : INVSBOX (SBOX b) = b := by revert b; decide

@[simp] theorem SBOX_INVSBOX (b : Byte) : SBOX (INVSBOX b) = b := by revert b; decide

theorem SBOX_ne_self (b : Byte) : SBOX b ≠ b := by revert b; decide

theorem SBOX_ne_complement (b : Byte) : SBOX b ≠ b ^^^ 0xFF#8 := by revert b; decide

/-- The inverse of the affine map of 10_state.md R43. -/
def sboxAffineInverse (x : Byte) : Byte := x.rotateLeft 1 ^^^ x.rotateLeft 3 ^^^ x.rotateLeft 6 ^^^ 0x05#8

theorem sboxAffine_sboxAffineInverse (x : Byte) : sboxAffine (sboxAffineInverse x) = x := by revert x; decide

/-- Taking the affine map off an entry of the table leaves the inverse in the field. -/
theorem fieldMul_sboxAffineInverse_SBOX {b : Byte} (h : b ≠ 0x00#8) : fieldMul b (sboxAffineInverse (SBOX b)) = 0x01#8 := by
  revert b; decide

/-- Settles O7: each law holds at all 256 points of the table; the inverse in the field is read off the entry itself. -/
theorem sboxLaws : Obligations.SboxLaws :=
  ⟨INVSBOX_SBOX, SBOX_INVSBOX, SBOX_ne_self, SBOX_ne_complement, rfl, fun b hb =>
    ⟨sboxAffineInverse (SBOX b), fieldMul_sboxAffineInverse_SBOX hb, (sboxAffine_sboxAffineInverse _).symm⟩⟩

theorem RCON_succ {j : Nat} (h : j < 9) : RCON (j + 1) = xtime (RCON j) := by
  interval_cases j <;> rfl

/-- The indices of the round constants that a schedule uses (42_key_schedule.md R168): `i div Nk - 1` at the multiples `i` of `Nk`
from `Nk` up, of which `last + 1` are below the length of the schedule. -/
theorem rconIndex_iff {nk last : Nat} (hlo : nk * (last + 1) < 4 * (nk + 6 + 1)) (hhi : 4 * (nk + 6 + 1) ≤ nk * (last + 2))
    (j : Nat) : (∃ i, nk ≤ i ∧ i < 4 * (nk + 6 + 1) ∧ i % nk = 0 ∧ j = i / nk - 1) ↔ j ≤ last := by
  have hnk : 0 < nk := Nat.pos_of_ne_zero fun h => by simp [h] at hhi
  constructor
  · rintro ⟨i, -, hi, -, rfl⟩
    have : i / nk < last + 2 := Nat.div_lt_of_lt_mul (Nat.lt_of_lt_of_le hi hhi)
    omega
  · intro hj
    have hle : nk * (j + 1) ≤ nk * (last + 1) := Nat.mul_le_mul_left nk (Nat.succ_le_succ hj)
    exact ⟨nk * (j + 1), Nat.le_mul_of_pos_right nk j.succ_pos, Nat.lt_of_le_of_lt hle hlo, Nat.mul_mod_right nk (j + 1),
      by rw [Nat.mul_div_cancel_left _ hnk, Nat.add_sub_cancel]⟩

/-- Settles O8: the table, its recurrence, and the bounds that fix the last index of each schedule. -/
theorem rconTableLaws : Obligations.RconTable := by
  refine ⟨rfl, fun j => RCON_succ, fun nk last h => ?_⟩
  have hbounds : nk * (last + 1) < 4 * (nk + 6 + 1) ∧ 4 * (nk + 6 + 1) ≤ nk * (last + 2) := by
    obtain ⟨rfl, rfl⟩ | ⟨rfl, rfl⟩ | ⟨rfl, rfl⟩ : (nk = 4 ∧ last = 9) ∨ (nk = 6 ∧ last = 7) ∨ (nk = 8 ∧ last = 6) := by
      simpa using h
    · decide
    · decide
    · decide
  exact rconIndex_iff hbounds.1 hbounds.2

end Sys2Proof.Machine
end

section
/-! PROOFS about 10_state.md R33 to R35: the derived registers, bit by bit. -/

namespace Sys2Proof.Machine

theorem hostRead_status (s : State) : hostRead s 0x063#9 = statusByte s := rfl

theorem hostRead_param (s : State) : hostRead s 0x064#9 = paramByte s := rfl

theorem hostRead_rkcnt (s : State) : hostRead s 0x065#9 = rkcntByte s := rfl

theorem getLsbD_bitAt (b : Bool) {k : Nat} (hk : k < 8) (i : Nat) : (bitAt b k).getLsbD i = (b && decide (i = k)) := by
  cases b with
  | false => simp [bitAt]
  | true =>
    simp only [bitAt, if_true, BitVec.getLsbD_ofNat, Nat.testBit_two_pow, Bool.true_and]
    by_cases h : i = k
    · simp [h, hk]
    · simp [h, Ne.symm h]

theorem klenLegal_eq_decide (k : Byte) : klenLegal k = decide (k.toNat ∈ [16, 24, 32]) := by
  rw [Bool.eq_iff_iff, klenLegal_iff_toNat_mem, decide_eq_true_iff]

theorem getLsbD_statusByte (s : State) (i : Nat) :
    (statusByte s).getLsbD i =
      (s.RKV && decide (i = 0) || klenLegal s.KLEN && decide (i = 1) || s.ERR != 0x00#8 && decide (i = 2)) := by
  simp [statusByte, getLsbD_bitAt]

theorem paramByte_of_KLEN_eq_16 {s : State} (h : s.KLEN = 16#8) : paramByte s = 0xA4#8 := by rw [paramByte, h]; rfl

theorem paramByte_of_KLEN_eq_24 {s : State} (h : s.KLEN = 24#8) : paramByte s = 0xC6#8 := by rw [paramByte, h]; rfl

theorem paramByte_of_KLEN_eq_32 {s : State} (h : s.KLEN = 32#8) : paramByte s = 0xE8#8 := by rw [paramByte, h]; rfl

/-- `PARAM` shows `Nk` in its low digit and `Nr` in its high digit (10_state.md R34). -/
theorem digits_paramByte {s : State} (h : klenLegal s.KLEN = true) :
    (paramByte s).toNat % 16 = s.KLEN.toNat / 4 ∧ (paramByte s).toNat / 16 = s.KLEN.toNat / 4 + 6 := by
  obtain ⟨hk, -, -⟩ | ⟨hk, -, -⟩ | ⟨hk, -, -⟩ := klenLegal_cases h
  · rw [paramByte_of_KLEN_eq_16 hk, hk]; decide
  · rw [paramByte_of_KLEN_eq_24 hk, hk]; decide
  · rw [paramByte_of_KLEN_eq_32 hk, hk]; decide

theorem paramByte_illegal {s : State} (h : ¬ klenLegal s.KLEN = true) : paramByte s = 0x00#8 := by
  rw [paramByte, if_neg h]

/-- With `RKV = 1`, `RKCNT` counts the round keys (10_state.md R35). -/
theorem toNat_rkcntByte (s : State) : (rkcntByte s).toNat = if s.RKV = true then s.KLEN.toNat / 4 + 6 + 1 else 0 := by
  have hbound := s.KLEN.isLt
  unfold rkcntByte nrOf nkOf
  split
  · simp only [BitVec.toNat_ofNat]; omega
  · rfl

/-- Settles O49: the bits of `STATUS`, the digits of `PARAM`, the number in `RKCNT`, and writes that the map ignores. -/
theorem derivedRegisters : Obligations.DerivedRegisters := by
  intro s
  have hlegal := klenLegal_iff_toNat_mem s.KLEN
  rw [hostRead_status, hostRead_param, hostRead_rkcnt]
  refine ⟨?_, ?_, ?_, fun i hi => ?_, fun h => digits_paramByte (hlegal.2 h), fun h => paramByte_illegal (mt hlegal.1 h),
    paramByte_of_KLEN_eq_16, paramByte_of_KLEN_eq_24, paramByte_of_KLEN_eq_32, toNat_rkcntByte s, fun v => ⟨rfl, rfl, rfl⟩⟩
  · rw [getLsbD_statusByte]; simp
  · rw [getLsbD_statusByte, klenLegal_eq_decide]; simp
  · rw [getLsbD_statusByte]; simp [bne, beq_eq_decide]
  · rw [getLsbD_statusByte]; simp [show i ≠ 0 by omega, show i ≠ 1 by omega, show i ≠ 2 by omega]

end Sys2Proof.Machine
end

section
/-! PROOFS about 10_state.md R25 and 42_key_schedule.md R165, R169: where the bytes of the schedule lie in `RK`. -/

namespace Sys2Proof.Machine

/-- Column `c` of a block is its bytes `4c .. 4c + 3`, the most significant first. -/
theorem col_eq_blockBytes (b : Block) (c : Fin 4) :
    b.col c = ⟨blockByte b (Fin.ofNat 16 (4 * c.val)), blockByte b (Fin.ofNat 16 (4 * c.val + 1)),
      blockByte b (Fin.ofNat 16 (4 * c.val + 2)), blockByte b (Fin.ofNat 16 (4 * c.val + 3))⟩ := by
  fin_cases c <;> rfl

theorem blockByte_roundKeyOf (w : List Word) (n : Nat) (i : Fin 16) :
    blockByte (roundKeyOf w n) i = (wordAt w (4 * n + (colOf i).val)).get (rowOf i) := by
  rw [blockByte, blockAt, col_roundKeyOf]

/-- The expansion begins with the columns of the key (42_key_schedule.md R163). -/
theorem wordAt_keyExpansion_lt (key : Vector Byte 32) {nk : Nat} (hnk : nk ≤ 8) (c : Fin 8) (hc : c.val < nk) :
    wordAt (keyExpansion key nk) c.val = keyColumn key c := by
  rw [keyExpansion, wordAt_expandWords_lt _ _ (by rwa [length_initialWords key hnk]), initialWords, wordAt,
    List.getD_eq_getElem?_getD, List.getElem?_take_of_lt hc]
  fin_cases c <;> rfl

/-- The bytes of the round keys that lie within the key are the key's own bytes, in order (42_key_schedule.md R169). -/
theorem blockByte_roundKeyOf_keyExpansion (key : Vector Byte 32) {nk n : Nat} (hnk : nk ≤ 8) (i : Fin 16)
    (h : 16 * n + i.val < 4 * nk) : blockByte (roundKeyOf (keyExpansion key nk) n) i = key[16 * n + i.val] := by
  have hc : 4 * n + i.val / 4 < nk := by omega
  have hword := wordAt_keyExpansion_lt key hnk ⟨4 * n + i.val / 4, by omega⟩ hc
  have hindex : i.val % 4 + 4 * (4 * n + i.val / 4) = 16 * n + i.val := by omega
  rw [blockByte_roundKeyOf]
  simp only [colOf, hword, get_keyColumn, keyIndex, rowOf, Fin.getElem_fin, hindex]

/-- Settles O28: the words, the bytes and the first round keys of a stored schedule. -/
theorem roundKeyLayout : Obligations.RoundKeyLayout := by
  intro s hs
  have hnk : nkOf s.KLEN ≤ 8 ∧ 4 ≤ nkOf s.KLEN := by
    obtain ⟨-, h, -⟩ | ⟨-, h, -⟩ | ⟨-, h, -⟩ := klenLegal_cases hs <;> simp [h]
  obtain ⟨hnk8, hnk4⟩ := hnk
  refine ⟨_, execKeyexpand_legal hs, ?_, ?_, ?_, ?_, ?_, ?_, ?_⟩
  · exact fun j hj => storeWord_storeSchedule s.RK _ hj
  · intro n c r hn
    rw [blockByte_seqIndex, blockAt, Fin.getElem_fin, getElem_storeSchedule, if_pos hn, col_roundKeyOf]
  · exact fun j => col_eq_blockBytes _ _
  · intro i
    rw [getElem_storeSchedule, if_pos (Nat.zero_le _), blockByte_roundKeyOf_keyExpansion _ hnk8 i (by omega)]
    simp
  · intro h24 i hi
    have h6 : nkOf s.KLEN = 6 := by rw [h24]; rfl
    rw [getElem_storeSchedule, if_pos (by simp [nrOf]), blockByte_roundKeyOf_keyExpansion _ hnk8 i (by omega)]
  · intro h32 i
    have h8 : nkOf s.KLEN = 8 := by rw [h32]; rfl
    rw [getElem_storeSchedule, if_pos (by simp [nrOf]), blockByte_roundKeyOf_keyExpansion _ hnk8 i (by omega)]
  · rw [hostRead_rkcnt, toNat_rkcntByte, if_pos rfl]
    obtain ⟨hk, -, -⟩ | ⟨hk, -, -⟩ | ⟨hk, -, -⟩ := klenLegal_cases hs
    · simp [hk]
    · simp [hk]
    · simp [hk]

end Sys2Proof.Machine
end

section
/-! PROOFS about 20_memory.md R63 and R70: what a read and a write of each address of the map do. -/

namespace Sys2Proof.Machine

theorem hostRead_of_locate {a : Addr} {l : Location} (h : locate a = l) (s : State) : hostRead s a = readLocation s l := by
  rw [hostRead, h]

theorem hostWrite_of_locate {a : Addr} {l : Location} (h : locate a = l) (v : Byte) (s : State) :
    hostWrite a v s = writeLocation v s l := by
  rw [hostWrite, h]

/-- No control register lies at or above 0x068 (20_memory.md R63). -/
theorem locateControl_eq_reserved {a : Nat} (h : 0x068 ≤ a) : locateControl a = .reserved := by
  unfold locateControl
  split
  case h_9 => rfl
  all_goals omega

/-- The two reserved ranges of 20_memory.md R63. -/
theorem locate_eq_reserved {a : Addr} (h : (0x068 ≤ a.toNat ∧ a.toNat ≤ 0x0FF) ∨ 0x1F0 ≤ a.toNat) : locate a = .reserved := by
  unfold locate
  dsimp only
  split_ifs
  · omega
  · omega
  · omega
  · omega
  · omega
  · exact locateControl_eq_reserved (by omega)

theorem colOf_eq_ofNat (i : Fin 16) : colOf i = Fin.ofNat 4 (i.val / 4) :=
  Fin.ext (Nat.mod_eq_of_lt (colOf i).isLt).symm

theorem keyIndex_eq_ofNat (r : Fin 4) (c : Fin 8) : keyIndex r c = Fin.ofNat 32 (r.val + 4 * c.val) :=
  Fin.ext (Nat.mod_eq_of_lt (keyIndex r c).isLt).symm

/-- A byte of the block written by its place in the byte sequence, as 20_memory.md R64 counts rows and columns. -/
theorem setAt_rowOf_colOf (m : Block) (i : Fin 16) (v : Byte) :
    setAt m (rowOf i) (colOf i) v =
      blockOf fun r c => if r.val = i.val % 4 ∧ c.val = i.val / 4 then v else blockAt m r c := by
  simp only [setAt, Fin.ext_iff, rowOf, colOf]

theorem addressMap_sb (s : State) (v : Byte) (i : Fin 16) :
    hostRead s (sbAddr i) = blockAt s.S (Fin.ofNat 4 i.val) (Fin.ofNat 4 (i.val / 4)) ∧
    hostWrite (sbAddr i) v s =
      .next { s with S := blockOf fun r c => if r.val = i.val % 4 ∧ c.val = i.val / 4 then v else blockAt s.S r c } := by
  rw [hostRead_of_locate (locate_sbAddr i), hostWrite_of_locate (locate_sbAddr i), ← colOf_eq_ofNat, ← setAt_rowOf_colOf]
  exact ⟨rfl, rfl⟩

theorem addressMap_sm (s : State) (v : Byte) (r c : Fin 4) :
    hostRead s (smAddr r c) = blockAt s.S r c ∧ hostWrite (smAddr r c) v s = .next { s with S := setAt s.S r c v } := by
  rw [hostRead_of_locate (locate_smAddr r c), hostWrite_of_locate (locate_smAddr r c)]
  exact ⟨rfl, rfl⟩

theorem addressMap_key (s : State) (v : Byte) (i : Fin 32) :
    hostRead s (keyAddr i) = s.KEY[i] ∧ hostWrite (keyAddr i) v s = .next { s with KEY := s.KEY.set i v, RKV := false } := by
  rw [hostRead_of_locate (locate_keyAddr i), hostWrite_of_locate (locate_keyAddr i)]
  exact ⟨rfl, rfl⟩

theorem addressMap_km (s : State) (v : Byte) {r : Fin 4} {c : Fin 8} {i : Fin 32} (hi : keyIndex r c = i) :
    hostRead s (kmAddr r c) = s.KEY[i] ∧
    hostWrite (kmAddr r c) v s = .next { s with KEY := s.KEY.set i v, RKV := false } := by
  subst hi
  rw [hostRead_of_locate (locate_kmAddr r c), hostWrite_of_locate (locate_kmAddr r c)]
  exact ⟨rfl, rfl⟩

theorem addressMap_rkb (s : State) (v : Byte) (n : Fin 15) (i : Fin 16) :
    hostRead s (rkbAddr n i) = readRoundKeyByte s n i ∧ hostWrite (rkbAddr n i) v s = .next s := by
  rw [hostRead_of_locate (locate_rkbAddr n i), hostWrite_of_locate (locate_rkbAddr n i)]
  exact ⟨rfl, rfl⟩

theorem addressMap_reserved (s : State) (v : Byte) {a : Addr}
    (h : (0x068 ≤ a.toNat ∧ a.toNat ≤ 0x0FF) ∨ 0x1F0 ≤ a.toNat) : hostRead s a = 0x00#8 ∧ hostWrite a v s = .next s := by
  rw [hostRead_of_locate (locate_eq_reserved h), hostWrite_of_locate (locate_eq_reserved h)]
  exact ⟨rfl, rfl⟩

/-- Settles O44: window by window; the eight control and status registers are single addresses, which the map computes. -/
theorem addressMap : Obligations.AddressMap := by
  refine ⟨addressMap_sb, addressMap_sm, addressMap_key, fun s v r c => addressMap_km s v (keyIndex_eq_ofNat r c), fun s v => ?_,
    addressMap_rkb, fun s v a => addressMap_reserved s v⟩
  exact ⟨rfl, rfl, rfl, rfl, rfl, rfl, rfl, rfl, rfl, rfl, rfl, rfl, rfl, rfl, rfl, rfl⟩

end Sys2Proof.Machine
end

section
/-! PROOFS about 20_memory.md R62, R65 and R67: the frame of a data write, read through every address. Two windows that reach one byte
act alike, so the cases are those of the stored byte, the location's cell. -/

namespace Sys2Proof.Machine

theorem readLocation_cell (s : State) (l : Location) : readLocation s l.cell = readLocation s l := by
  cases l with
  | sm r c => exact blockByte_seqIndex s.S r c
  | _ => rfl

theorem writeLocation_cell (v : Byte) (s : State) (l : Location) : writeLocation v s l.cell = writeLocation v s l := by
  cases l with
  | sm r c => simp only [Location.cell, writeLocation, rowOf_seqIndex, colOf_seqIndex]
  | _ => rfl

theorem hostWrite_of_cell {a : Addr} {l : Location} (h : (locate a).cell = l) (v : Byte) (s : State) :
    hostWrite a v s = writeLocation v s l := by
  rw [hostWrite, ← h, writeLocation_cell]

/-- The registers that a write to `CMD` can reach: those of a command, `exec_cases`, or of an illegal byte. -/
theorem runCommand_frame (v : Byte) (s : State) :
    ∃ b rk f g e, runCommand v s = .next { s with S := b, RK := rk, RKV := f, GFR := g, ERR := e } := by
  cases hd : decode v with
  | illegal => exact ⟨s.S, s.RK, s.RKV, s.GFR, _, runCommand_illegal hd s⟩
  | command i => rw [runCommand_command hd]; exact exec_cases i s

/-- Every write gives a next state (20_memory.md R62, 60_exceptions.md R200). -/
theorem exists_hostWrite_eq_next (a : Addr) (v : Byte) (s : State) : ∃ t, hostWrite a v s = .next t := by
  unfold hostWrite
  cases locate a with
  | cmd =>
    obtain ⟨b, rk, f, g, e, h⟩ := runCommand_frame v s
    exact ⟨_, h⟩
  | _ => exact ⟨_, rfl⟩

/-- The registers that a data write can reach. -/
theorem StoreEffect.frame {v : Byte} {l : Location} {s t : State} (he : StoreEffect v s l t) :
    t = { s with S := t.S, KEY := t.KEY, KLEN := t.KLEN, RKV := t.RKV, GFA := t.GFA } := by
  obtain rfl | ⟨m, rfl⟩ | ⟨-, ⟨i, rfl⟩ | rfl⟩ | rfl := he
  · rfl
  · rfl
  · rfl
  · rfl
  · rfl

/-- The single addresses whose writes are ignored (20_memory.md R63, R70). -/
theorem writeLocation_readOnly {l : Location} (h : l ∈ [Location.err, .status, .param, .rkcnt, .gfr, .reserved])
    (v : Byte) (s : State) : writeLocation v s l = .next s := by
  fin_cases h <;> rfl

/-- A byte of `S` written reads back, and every other read is as before. -/
theorem readLocation_withS_setAt (s : State) (i : Fin 16) (v : Byte) (l : Location) :
    readLocation (s.withS (setAt s.S (rowOf i) (colOf i) v)) l = if l.cell = .sb i then v else readLocation s l := by
  have hcell : ∀ j, blockByte (setAt s.S (rowOf i) (colOf i) v) j = if Location.sb j = .sb i then v else blockByte s.S j :=
    fun j => by simp [blockByte_setAt]
  cases l with
  | sb j => exact hcell j
  | sm r c =>
    rw [← readLocation_cell, ← readLocation_cell s]
    exact hcell (seqIndex r c)
  | _ => exact (if_neg nofun).symm

/-- The same for a byte of `KEY`, but for the locations that show the schedule. -/
theorem readLocation_writeKeyByte (s : State) (i : Fin 32) (v : Byte) {l : Location} (hl : l.isSchedule = false) :
    readLocation (writeKeyByte i v s) l = if l.cell = .key i then v else readLocation s l := by
  have hcell : ∀ j : Fin 32, (s.KEY.set i v)[j] = if Location.key j = .key i then v else s.KEY[j] :=
    fun j => by simp [Vector.getElem_set, Fin.ext_iff, eq_comm]
  cases l with
  | key j => exact hcell j
  | km r c => exact hcell (keyIndex r c)
  | status | rkcnt | rkb n j => cases hl
  | _ => exact (if_neg nofun).symm

/-- The same for `KLEN`, which `PARAM` shows too. -/
theorem readLocation_writeKlen (s : State) (v : Byte) {l : Location} (hl : l.isSchedule = false) (hparam : l.cell ≠ .param) :
    readLocation (writeKlen v s) l = if l.cell = .klen then v else readLocation s l := by
  cases l with
  | klen => rfl
  | status | rkcnt | rkb n j => cases hl
  | param => exact absurd rfl hparam
  | _ => exact (if_neg nofun).symm

theorem readLocation_withGFA (s : State) (v : Byte) (l : Location) :
    readLocation (s.withGFA v) l = if l.cell = .gfa then v else readLocation s l := by
  cases l with
  | gfa => rfl
  | _ => exact (if_neg nofun).symm

/-- Settles O47: the registers that can differ, then what each kind of cell stores and how every address reads it. -/
theorem hostWriteFrame : Obligations.HostWriteFrame := by
  intro a v s ha
  obtain ⟨t, ht⟩ := exists_hostWrite_eq_next a v s
  have hstored : ∀ {l : Location} {u : State}, (locate a).cell = l → writeLocation v s l = .next u → u = t := fun hc hu =>
    Host.Outcome.next.inj (hu.symm.trans ((hostWrite_of_cell hc v s).symm.trans ht))
  refine ⟨t, ht, (writeLocation_effect ha ht).frame, fun hc => ?_, fun ⟨n, i, hc⟩ => ?_, fun i hc b => ?_, fun hc b => ?_,
    fun i hc => ?_, fun hc => ?_⟩
  · exact (hstored rfl (writeLocation_readOnly hc v s)).symm
  · exact (hstored hc rfl).symm
  · obtain rfl := hstored hc rfl
    exact readLocation_withS_setAt s i v (locate b)
  · obtain rfl := hstored hc rfl
    exact readLocation_withGFA s v (locate b)
  · obtain rfl := hstored hc rfl
    exact ⟨rfl, fun b => readLocation_writeKeyByte s i v⟩
  · obtain rfl := hstored hc rfl
    exact ⟨rfl, fun b => readLocation_writeKlen s v⟩

end Sys2Proof.Machine
end

section
/-! PROOFS about 20_memory.md R60, R61, R64 and R78: the host's transactions, one step each, and a block through the window `SB`. -/

namespace Sys2Proof.Machine

section
variable {s : State} {a : Addr} {v : Byte} {rest : List HostEvent}

theorem step_read (hr : s.resetDone = true) (h : s.host = .read a :: rest) :
    step s = .next ((s.withHost rest).withReads (hostRead s a :: s.reads)) := by
  rw [step_cons h, serve_read (s := s.withHost rest) hr]; rfl

theorem step_write (hr : s.resetDone = true) (h : s.host = .write a v :: rest) :
    step s = hostWrite a v (s.withHost rest) := by
  rw [step_cons h, serve_write (s := s.withHost rest) hr]

theorem step_before_reset {e : HostEvent} (hr : s.resetDone = false) (h : s.host = e :: rest) (he : e ≠ .reset) :
    step s = .refused .transactionBeforeReset := by
  rw [step_cons h]
  cases e with
  | reset => exact absurd rfl he
  | read a => simp [serve, hr]
  | write a v => simp [serve, hr]

/-- A read before the first reset gives no next state, so any next state after a read is that of `step_read`. -/
theorem eq_of_step_read {t : State} (h : s.host = .read a :: rest) (ht : step s = .next t) :
    t = (s.withHost rest).withReads (hostRead s a :: s.reads) := by
  cases hr : s.resetDone with
  | false => rw [step_before_reset hr h nofun] at ht; cases ht
  | true => rw [step_read hr h] at ht; cases ht; rfl

end

/-- What the host has pending and has read does not enter a read. -/
theorem hostRead_withHost_withReads (s : State) (l : List HostEvent) (m : List Byte) (a : Addr) :
    hostRead ((s.withHost l).withReads m) a = hostRead s a :=
  hostRead_congr rfl rfl rfl rfl rfl rfl rfl rfl a

/-- Settles O45: the step of a read, after which only the host's own lists differ. -/
theorem readsChangeNothing : Obligations.ReadsChangeNothing := fun s _ _ hr h =>
  ⟨_, step_read hr h, rfl, hostRead_withHost_withReads s _ _⟩

/-- No write touches the host's own lists. -/
theorem hostWrite_keeps_lists {a : Addr} {v : Byte} {s t : State} (h : hostWrite a v s = .next t) :
    t.host = s.host ∧ t.reads = s.reads := by
  by_cases hl : locate a = .cmd
  · obtain ⟨b, rk, f, g, e, hrun⟩ := runCommand_frame v s
    cases hrun.symm.trans ((hostWrite_of_locate hl v s).symm.trans h)
    exact ⟨rfl, rfl⟩
  · rw [(writeLocation_effect hl h).frame]
    exact ⟨rfl, rfl⟩

/-- Settles O51: idle, a write, a refusal, and what each kind of event leaves of the host's lists. -/
theorem stepServesHostInOrder : Obligations.StepServesHostInOrder := by
  refine ⟨fun s => step_nil, fun s a v rest => step_write, fun s e rest => step_before_reset, fun s t ht => ?_⟩
  obtain ⟨hh, rfl⟩ | ⟨e, rest, hh, ⟨rfl, rfl⟩ | ⟨a, rfl, -, rfl⟩ | ⟨a, v, rfl, -, hw⟩⟩ := step_cases ht
  · simp [hh]
  · simp [hh, takeReset_eq]
  · rw [hh]
    refine ⟨rfl, fun a' rest' h => ?_, fun hne => absurd rfl (hne a)⟩
    cases h
    rfl
  · obtain ⟨hhost, hreads⟩ := hostWrite_keeps_lists hw
    rw [hh]
    exact ⟨hhost, nofun, fun _ => hreads⟩

/-- The block after the bytes `b i` have been written to the places `i` of a list, in order. -/
def storeBytes (b : Fin 16 → Byte) (l : List (Fin 16)) (m : Block) : Block :=
  l.foldl (fun m i => setAt m (rowOf i) (colOf i) (b i)) m

theorem blockByte_storeBytes (b : Fin 16 → Byte) (l : List (Fin 16)) (m : Block) (j : Fin 16) :
    blockByte (storeBytes b l m) j = if j ∈ l then b j else blockByte m j := by
  induction l generalizing m with
  | nil => rfl
  | cons i l ih =>
    refine (ih _).trans ?_
    by_cases hj : j = i
    · simp [blockByte_setAt, hj]
    · simp [blockByte_setAt, hj]

/-- A run over writes to the window `SB`. -/
theorem run_writes_sb (b : Fin 16 → Byte) (l : List (Fin 16)) {s : State} {rest : List HostEvent} (hr : s.resetDone = true)
    (h : s.host = l.map (fun i => HostEvent.write (sbAddr i) (b i)) ++ rest) :
    (Host.Core.run Sys2Proof.core l.length s : Result) = .next ((s.withHost rest).withS (storeBytes b l s.S)) := by
  induction l generalizing s with
  | nil => cases (show s.host = rest from h); rfl
  | cons i l ih =>
    have hstep := step_write hr h
    rw [hostWrite_of_locate (locate_sbAddr i)] at hstep
    exact (run_succ l.length hstep).trans (ih hr rfl)

/-- A run over reads returns what each address reads at the start. -/
theorem run_reads (l : List Addr) {s : State} {rest : List HostEvent} (hr : s.resetDone = true)
    (h : s.host = l.map HostEvent.read ++ rest) :
    (Host.Core.run Sys2Proof.core l.length s : Result) =
      .next ((s.withHost rest).withReads ((l.map (hostRead s)).reverse ++ s.reads)) := by
  induction l generalizing s with
  | nil => cases (show s.host = rest from h); rfl
  | cons a l ih =>
    have hstep := step_read hr h
    have hrest := ih (s := (s.withHost (l.map HostEvent.read ++ rest)).withReads (hostRead s a :: s.reads)) hr rfl
    rw [funext (hostRead_withHost_withReads s _ _)] at hrest
    rw [List.map_cons, List.reverse_cons, List.append_assoc]
    exact (run_succ l.length hstep).trans hrest

/-- Writing all sixteen bytes leaves nothing of the block before. -/
theorem storeBytes_finRange (b : Fin 16 → Byte) (m : Block) : storeBytes b (List.finRange 16) m = blockOfBytes b :=
  block_ext fun r c => by
    rw [← blockByte_seqIndex, blockByte_storeBytes, if_pos (List.mem_finRange _), blockAt_blockOfBytes]

/-- The window `SB` reads in the order of the block's bytes. -/
theorem map_hostRead_sbAddr {t : State} {b : Fin 16 → Byte} (h : t.S = blockOfBytes b) (l : List (Fin 16)) :
    (l.map sbAddr).map (hostRead t) = l.map b := by
  have hread : ∀ i, hostRead t (sbAddr i) = b i := fun i => by
    rw [hostRead_of_locate (locate_sbAddr i), readLocation, h, blockByte_blockOfBytes]
  rw [List.map_map]
  exact List.map_congr_left fun i _ => hread i

/-- Settles O46: the sixteen writes leave the block of the bytes written, which the sixteen reads then return. -/
theorem blockThroughWindow : Obligations.BlockThroughWindow := by
  intro s b rest hr h
  rw [List.append_assoc] at h
  have hwrites := run_writes_sb b (List.finRange 16) hr h
  rw [storeBytes_finRange] at hwrites
  refine ⟨_, _, hwrites, blockAt_blockOfBytes b, run_reads ((List.finRange 16).map sbAddr) (rest := rest) hr ?_, rfl, rfl, ?_⟩
  · rw [List.map_map]
    rfl
  · rw [map_hostRead_sbAddr rfl]
    rfl

end Sys2Proof.Machine
end

section
/-! PROOFS about 20_memory.md R71: the writes that clear `RKV`. -/

namespace Sys2Proof.Machine

/-- The addresses 0x020 to 0x060 are the windows `KEY`, `KM` and the register `KLEN` (20_memory.md R63). -/
theorem isKey_locate {a : Addr} (hlo : 0x020 ≤ a.toNat) (hhi : a.toNat ≤ 0x060) : (locate a).isKey = true := by
  unfold locate
  dsimp only
  split_ifs
  · omega
  · omega
  · rfl
  · rfl
  · omega
  · rw [show a.toNat = 0x060 by omega]; rfl

theorem writeLocation_of_isKey {l : Location} (h : l.isKey = true) (v : Byte) (s : State) :
    (∃ i, writeLocation v s l = .next (writeKeyByte i v s)) ∨ writeLocation v s l = .next (writeKlen v s) := by
  cases l with
  | key i => exact .inl ⟨i, rfl⟩
  | km r c => exact .inl ⟨keyIndex r c, rfl⟩
  | klen => exact .inr rfl
  | _ => cases h

/-- A data write that reaches no byte of the key. -/
theorem StoreEffect.frame_of_not_isKey {v : Byte} {l : Location} {s t : State} (he : StoreEffect v s l t)
    (hl : ¬ l.isKey = true) : t.RKV = s.RKV ∧ t = { s with S := t.S, GFA := t.GFA } := by
  obtain rfl | ⟨m, rfl⟩ | ⟨hkey, -⟩ | rfl := he
  · exact ⟨rfl, rfl⟩
  · exact ⟨rfl, rfl⟩
  · exact absurd hkey hl
  · exact ⟨rfl, rfl⟩

/-- Settles O48: the addresses of the key clear `RKV`; of the others only `CMD`, at 0x061, can change it. -/
theorem keyWritesClearSchedule : Obligations.KeyWritesClearSchedule := by
  refine ⟨fun a v s t hlo hhi h => ?_, fun a v s t ha h => ?_, exists_hostWrite_eq_next, fun s t a rest hh h => ?_⟩
  · obtain ⟨i, hw⟩ | hw := writeLocation_of_isKey (isKey_locate hlo hhi) v s
    · cases hw.symm.trans h; exact ⟨rfl, rfl⟩
    · cases hw.symm.trans h; exact ⟨rfl, rfl⟩
  · have hcmd : locate a ≠ .cmd := fun hc => by
      rw [eq_of_locate_eq_cmd hc] at ha
      revert ha; decide
    refine (writeLocation_effect hcmd h).frame_of_not_isKey fun hkey => ?_
    obtain ⟨hlo, hhi⟩ := toNat_of_isKey_locate hkey
    omega
  · rw [eq_of_step_read hh h]
    rfl

end Sys2Proof.Machine
end

section
/-! PROOFS about 30_encoding.md: the decoder by the fields of the byte, its agreement with the encoder, the rows of the opcode map,
the illegal bytes and the operands. -/

namespace Sys2Proof.Machine

theorem argField_lt (v : Byte) : argField v < 16 := Nat.mod_lt _ (by decide)

theorem argFits_iff (n : Nat) : argFits n = true ↔ n < 16 := decide_eq_true_iff

/-- No byte with 6 in `OP` is the whole byte of another row (30_encoding.md R91). -/
theorem decode_of_opField_eq_six {v : Byte} (h : opField v = 0x6) : decode v = .command (.addroundkey (argField v)) := by
  unfold decode
  split
  case h_11 => rw [if_pos h]
  all_goals unfold opField at h; omega

/-- No byte with 8 in `OP` is the whole byte of another row (30_encoding.md R91). -/
theorem decode_of_opField_eq_eight {v : Byte} (h : opField v = 0x8) : decode v = .command (.gmul (argField v)) := by
  unfold decode
  split
  case h_11 => rw [if_neg (by omega), if_pos h]
  all_goals unfold opField at h; omega

/-- A byte built as a row's match value plus an operand has the match value's `OP` and the operand as its `ARG`
(30_encoding.md R90, R92, R93). -/
theorem fields_ofNat {op n : Nat} (hop : op < 16) (hn : n < 16) :
    opField (BitVec.ofNat 8 (16 * op + n)) = op ∧ argField (BitVec.ofNat 8 (16 * op + n)) = n := by
  simp only [opField, argField, BitVec.toNat_ofNat]
  omega

theorem decode_ofNat_addroundkey {n : Nat} (hn : n < 16) : decode (BitVec.ofNat 8 (0x60 + n)) = .command (.addroundkey n) := by
  obtain ⟨hop, harg⟩ := fields_ofNat (op := 0x6) (by decide) hn
  rw [decode_of_opField_eq_six hop, harg]

theorem decode_ofNat_gmul {c : Nat} (hc : c < 16) : decode (BitVec.ofNat 8 (0x80 + c)) = .command (.gmul c) := by
  obtain ⟨hop, harg⟩ := fields_ofNat (op := 0x8) (by decide) hc
  rw [decode_of_opField_eq_eight hop, harg]

theorem decode_encode {i : Instr} (h : i.wellFormed = true) : decode (encode i) = .command i := by
  cases i with
  | addroundkey n => rw [encode, ← BitVec.ofNat_add]; exact decode_ofNat_addroundkey ((argFits_iff n).1 h)
  | gmul c => rw [encode, ← BitVec.ofNat_add]; exact decode_ofNat_gmul ((argFits_iff c).1 h)
  | _ => rfl

/-- An operand comes from `ARG`, four bits wide. -/
theorem wellFormed_of_decode {v : Byte} {i : Instr} (h : decode v = .command i) : i.wellFormed = true := by
  unfold decode at h
  split at h
  case h_11 =>
    split_ifs at h
    · cases h; exact (argFits_iff _).2 (argField_lt v)
    · cases h; exact (argFits_iff _).2 (argField_lt v)
  all_goals cases h; rfl

theorem decode_eq_command_iff {v : Byte} {i : Instr} : decode v = .command i ↔ i.wellFormed = true ∧ encode i = v :=
  ⟨fun h => ⟨wellFormed_of_decode h, encode_eq_of_decode h⟩, fun ⟨hi, hv⟩ => hv ▸ decode_encode hi⟩

/-- Settles O1: the two directions of `decode_eq_command_iff`. -/
theorem decodeEncodeAgree : Obligations.DecodeEncodeAgree :=
  ⟨fun _ => decode_encode, fun _ _ => decode_eq_command_iff.1⟩

/-- A row without operand: the mask keeps the whole byte. -/
theorem decode_eq_command_iff_whole (v : Byte) {i : Instr} (hi : i.wellFormed = true) :
    decode v = .command i ↔ v &&& 0xFF#8 = encode i := by
  have hmask : v &&& 0xFF#8 = v := BitVec.and_allOnes
  rw [decode_eq_command_iff, hmask]
  exact ⟨fun h => h.2.symm, fun h => ⟨hi, h.symm⟩⟩

/-- A byte is its `OP`, in place, plus its `ARG` (30_encoding.md R90). -/
theorem and_add_argField (v : Byte) : (v &&& 0xF0#8) + BitVec.ofNat 8 (argField v) = v := by revert v; decide

/-- A row with an operand: the mask keeps `OP`, and the operand is `ARG` itself (30_encoding.md R91 to R93). -/
theorem decode_eq_operand_iff {row : Nat → Instr} {base : Byte} (hfits : ∀ n, (row n).wellFormed = argFits n)
    (hencode : ∀ n, encode (row n) = base + BitVec.ofNat 8 n)
    (hfields : ∀ n, (row n).wellFormed = true → encode (row n) &&& 0xF0#8 = base ∧ argField (encode (row n)) = n)
    (v : Byte) (n : Nat) : decode v = .command (row n) ↔ v &&& 0xF0#8 = base ∧ n = argField v := by
  rw [decode_eq_command_iff]
  constructor
  · rintro ⟨hn, rfl⟩
    obtain ⟨hop, harg⟩ := hfields n hn
    exact ⟨hop, harg.symm⟩
  · rintro ⟨rfl, rfl⟩
    exact ⟨(hfits _).trans ((argFits_iff _).2 (argField_lt v)), (hencode _).trans (and_add_argField v)⟩

theorem decode_eq_addroundkey_iff (v : Byte) (n : Nat) :
    decode v = .command (.addroundkey n) ↔ v &&& 0xF0#8 = 0x60#8 ∧ n = argField v :=
  decode_eq_operand_iff (fun _ => rfl) (fun _ => rfl) Laws.EncodeInRow.addroundkey v n

theorem decode_eq_gmul_iff (v : Byte) (c : Nat) : decode v = .command (.gmul c) ↔ v &&& 0xF0#8 = 0x80#8 ∧ c = argField v :=
  decode_eq_operand_iff (fun _ => rfl) (fun _ => rfl) Laws.EncodeInRow.gmul v c

/-- The twelve rows take ten single bytes and twice sixteen (30_encoding.md R91). -/
theorem length_filter_command : ((List.range 256).filter fun v => decode (BitVec.ofNat 8 v) != .illegal).length = 42 := by decide

/-- Settles O2: ten rows that fix the whole byte, two that fix `OP`, and the count. -/
theorem opcodeMapSelects : Obligations.OpcodeMapSelects := by
  refine ⟨fun v => ?_, length_filter_command⟩
  have hwhole : ∀ {i : Instr}, i.wellFormed = true → (decode v = .command i ↔ v &&& 0xFF#8 = encode i) :=
    decode_eq_command_iff_whole v
  exact ⟨hwhole rfl, hwhole rfl, hwhole rfl, hwhole rfl, hwhole rfl, hwhole rfl, hwhole rfl, hwhole rfl, hwhole rfl,
    decode_eq_addroundkey_iff v, hwhole rfl, decode_eq_gmul_iff v⟩

/-- The ranges of 30_encoding.md R94 are what the rows of R91 leave. -/
theorem decode_eq_illegal_iff (v : Byte) : decode v = .illegal ↔
    (v.toNat ≤ 0x0F ∨ (0x12 ≤ v.toNat ∧ v.toNat ≤ 0x1F) ∨ (0x21 ≤ v.toNat ∧ v.toNat ≤ 0x2F) ∨
     (0x32 ≤ v.toNat ∧ v.toNat ≤ 0x3F) ∨ (0x42 ≤ v.toNat ∧ v.toNat ≤ 0x4F) ∨ (0x52 ≤ v.toNat ∧ v.toNat ≤ 0x5F) ∨
     (0x71 ≤ v.toNat ∧ v.toNat ≤ 0x7F) ∨ 0x90 ≤ v.toNat) := by
  unfold decode
  split
  case h_11 =>
    simp only [imp_false] at *
    unfold opField
    split_ifs
    · exact iff_of_false nofun (by omega)
    · exact iff_of_false nofun (by omega)
    · exact iff_of_true rfl (by omega)
  all_goals exact iff_of_false nofun (by omega)

/-- The bytes of R94 are those of the 256 that R91 leaves. -/
theorem length_filter_illegal : ((List.range 256).filter fun v => decode (BitVec.ofNat 8 v) == .illegal).length = 214 := by
  have htotal := List.length_eq_length_filter_add (l := List.range 256) fun v => decode (BitVec.ofNat 8 v) == .illegal
  have hcommand := length_filter_command
  simp only [bne] at hcommand
  rw [List.length_range, hcommand] at htotal
  omega

/-- Settles O3: the ranges, the count, and the effect of an illegal byte on `ERR` alone. -/
theorem illegalBytesReportError : Obligations.IllegalBytesReportError :=
  ⟨decode_eq_illegal_iff, length_filter_illegal, fun _ s h => runCommand_illegal h s⟩

/-- A write of a command's byte to `CMD` runs the command (20_memory.md R63). -/
theorem hostWrite_cmd_of_decode {v : Byte} {i : Instr} (h : decode v = .command i) (s : State) :
    hostWrite 0x061#9 v s = exec i s :=
  (hostWrite_cmdAddr v s).trans (runCommand_command h s)

/-- `GCONST` is the seven constants and no other number (40_gf_arithmetic.md R112). -/
theorem selectConst_eq_none {c : Nat} (h : c ∉ [0x1, 0x2, 0x3, 0x9, 0xb, 0xd, 0xe]) : selectConst c = none := by
  unfold selectConst
  split
  case h_8 => rfl
  all_goals exact absurd (by decide) h

/-- Settles O4: the operand is read as it stands, and the checks reject it at execution. The invariant of R27 is not needed, since
the model rejects `n = 15` whatever `Nr` is. -/
theorem operandsUnscaled : Obligations.OperandsUnscaled := by
  refine ⟨fun _ => decode_ofNat_addroundkey, fun _ => decode_ofNat_gmul, fun s n _ hn hv hbad => ?_, fun s c hc hbad => ?_,
    rfl, rfl, rfl⟩
  · rw [hostWrite_cmd_of_decode (decode_ofNat_addroundkey hn), exec_addroundkey]
    exact execAddroundkey_badIndex hv (selectRoundKey_eq_none (hbad.symm.imp_right Eq.ge))
  · rw [hostWrite_cmd_of_decode (decode_ofNat_gmul hc), exec_gmul]
    exact execGmul_bad (selectConst_eq_none hbad) s

end Sys2Proof.Machine
end

section
/-! PROOFS about 40_gf_arithmetic.md sections 2 and 3: `xtime` by number, the linearity of both functions, and `gmul` as a sum over the bits of
its constant. -/

namespace Sys2Proof.Machine

/-- Bit 7 is the one a shift by one bit drops. -/
theorem getLsbD_seven (b : Byte) : b.getLsbD 7 = decide (128 ≤ b.toNat) := BitVec.msb_eq_decide b

theorem toNat_xtime_of_lt {b : Byte} (h : b.toNat < 128) : (xtime b).toNat = 2 * b.toNat := by
  have hbit : ¬ b.getLsbD 7 = true := by rw [getLsbD_seven, decide_eq_true_iff]; exact Nat.not_le.2 h
  rw [xtime, if_neg hbit, BitVec.toNat_shiftLeft, Nat.shiftLeft_eq]
  omega

theorem xtime_of_le {b : Byte} (h : 128 ≤ b.toNat) : xtime b = BitVec.ofNat 8 (2 * b.toNat - 256) ^^^ 0x1B#8 := by
  have hbit : b.getLsbD 7 = true := (getLsbD_seven b).trans (decide_eq_true h)
  have hshift : b <<< 1 = BitVec.ofNat 8 (2 * b.toNat - 256) := BitVec.eq_of_toNat_eq <| by
    rw [BitVec.toNat_shiftLeft, Nat.shiftLeft_eq, BitVec.toNat_ofNat]
    omega
  rw [xtime, if_pos hbit, hshift]

/-- Settles O9: the two sides of 128, and the examples. -/
theorem xtimeShiftsAndFolds : Obligations.XtimeShiftsAndFolds :=
  ⟨fun _ => toNat_xtime_of_lt, fun _ => xtime_of_le, by decide⟩

/-- Addition in the field is XOR, and `xtime` distributes over it (40_gf_arithmetic.md R113). -/
theorem xtime_xor (a b : Byte) : xtime (a ^^^ b) = xtime a ^^^ xtime b := by
  refine BitVec.eq_of_getLsbD_eq fun i hi => ?_
  simp only [getLsbD_xtime _ _ hi, BitVec.getLsbD_xor, Bool.and_xor_distrib_left, Bool.and_xor_distrib_right]
  simp only [Bool.xor_assoc, Bool.xor_left_comm]

theorem gmul_xor (a b : Byte) (k : GConst) : gmul (a ^^^ b) k = gmul a k ^^^ gmul b k := by
  cases k with
  | c1 => rfl
  | c2 => exact xtime_xor a b
  | c3 => simp only [gmul_c3, xtime_xor]; ac_rfl
  | c9 => simp only [gmul_c9, xtime_xor]; ac_rfl
  | cb => simp only [gmul_cb, xtime_xor]; ac_rfl
  | cd => simp only [gmul_cd, xtime_xor]; ac_rfl
  | ce => simp only [gmul_ce, xtime_xor]; ac_rfl

theorem gmul_zero (k : GConst) : gmul 0x00#8 k = 0x00#8 := by cases k <;> rfl

theorem gmul_one (k : GConst) : gmul 0x01#8 k = BitVec.ofNat 8 k.toNat := by cases k <;> rfl

/-- The members of `GCONST` as numbers (40_gf_arithmetic.md R112). -/
theorem exists_toNat_eq_iff (c : Nat) : (∃ k : GConst, k.toNat = c) ↔ c ∈ [0x1, 0x2, 0x3, 0x9, 0xb, 0xd, 0xe] := by
  constructor
  · rintro ⟨k, rfl⟩
    cases k <;> decide
  · intro (h : c ∈ [GConst.c1, .c2, .c3, .c9, .cb, .cd, .ce].map GConst.toNat)
    obtain ⟨k, -, hk⟩ := List.mem_map.1 h
    exact ⟨k, hk⟩

theorem exists_selectConst_iff (c : Nat) :
    (∃ k : GConst, selectConst c = some k ∧ k.toNat = c) ↔ c ∈ [0x1, 0x2, 0x3, 0x9, 0xb, 0xd, 0xe] := by
  rw [← exists_toNat_eq_iff]
  refine exists_congr fun k => and_iff_right_of_imp ?_
  rintro rfl
  exact selectConst_toNat k

/-- The XOR of `xtime` applied `i` times to `a`, over the places `i` of a list. -/
def xtimeSum (a : Byte) (l : List Nat) : Byte := l.foldl (fun acc i => acc ^^^ xtime^[i] a) 0x00#8

theorem xtime_iterate_xor (i : Nat) (a b : Byte) : xtime^[i] (a ^^^ b) = xtime^[i] a ^^^ xtime^[i] b := by
  induction i generalizing a b with
  | zero => rfl
  | succ i ih => rw [Function.iterate_succ_apply, xtime_xor, ih]; rfl

theorem xtimeSum_xor (a b : Byte) (l : List Nat) : xtimeSum (a ^^^ b) l = xtimeSum a l ^^^ xtimeSum b l := by
  have hacc : ∀ x y : Byte, l.foldl (fun acc i => acc ^^^ xtime^[i] (a ^^^ b)) (x ^^^ y) =
      l.foldl (fun acc i => acc ^^^ xtime^[i] a) x ^^^ l.foldl (fun acc i => acc ^^^ xtime^[i] b) y := by
    induction l with
    | nil => exact fun _ _ => rfl
    | cons i l ih =>
      intro x y
      have hterm : x ^^^ y ^^^ xtime^[i] (a ^^^ b) = x ^^^ xtime^[i] a ^^^ (y ^^^ xtime^[i] b) := by
        rw [xtime_iterate_xor]; ac_rfl
      rw [List.foldl_cons, hterm, ih]; rfl
  exact hacc 0x00#8 0x00#8

/-- The general form of 40_gf_arithmetic.md R112: the places are the bits of the constant. -/
theorem gmul_eq_xtimeSum (a : Byte) (k : GConst) : gmul a k = xtimeSum a ([0, 1, 2, 3].filter k.toNat.testBit) := by
  cases k with
  | c1 | c2 => exact BitVec.zero_xor.symm
  | c3 | c9 => simp [xtimeSum, GConst.toNat, Nat.testBit, gmul_c9, BitVec.xor_comm]
  | cb | cd | ce => simp [xtimeSum, GConst.toNat, Nat.testBit, gmul_cb, gmul_cd, gmul_ce]; ac_rfl

theorem gmul_nested (a : Byte) :
    gmul a .cb = xtime (xtime (xtime a) ^^^ a) ^^^ a ∧
    gmul a .cd = xtime (xtime (xtime a ^^^ a)) ^^^ a ∧
    gmul a .ce = xtime (xtime (xtime a ^^^ a) ^^^ a) := by
  simp only [gmul_cb, gmul_cd, gmul_ce, xtime_xor, and_self]

/-- Settles O10: the members of `GCONST`, the nested forms by linearity, and the general form. -/
theorem gmulTable : Obligations.GmulTable :=
  ⟨exists_selectConst_iff, fun a => ⟨rfl, rfl, rfl, rfl, gmul_nested a⟩, gmul_eq_xtimeSum, by decide⟩

end Sys2Proof.Machine
end

section
/-! PROOFS about 40_gf_arithmetic.md sections 1 and 3: multiplication modulo 0x11B is linear and distributes over the bits of a factor, so
it is the same sum of powers of `xtime` as `gmul`, and inverts it. -/

namespace Sys2Proof.Machine

/-- A step of the long division by 0x11B: the term of degree `8 + k` is taken off. -/
def reduceStep (p k : Nat) : Nat := if p.testBit (8 + k) then p ^^^ (0x11B <<< k) else p

theorem polyMod_eq_foldl (p : Nat) : polyMod p = [6, 5, 4, 3, 2, 1, 0].foldl reduceStep p := rfl

theorem reduceStep_xor (p q k : Nat) : reduceStep (p ^^^ q) k = reduceStep p k ^^^ reduceStep q k := by
  unfold reduceStep
  rw [Nat.testBit_xor]
  cases p.testBit (8 + k) <;> cases q.testBit (8 + k)
  · rfl
  · exact Nat.xor_assoc p q _
  · exact Nat.xor_right_comm p q _
  · have hcancel : p ^^^ 0x11B <<< k ^^^ (q ^^^ 0x11B <<< k) = p ^^^ q ^^^ (0x11B <<< k ^^^ 0x11B <<< k) := by ac_rfl
    rw [Nat.xor_self, Nat.xor_zero] at hcancel
    exact hcancel.symm

theorem polyMod_xor (p q : Nat) : polyMod (p ^^^ q) = polyMod p ^^^ polyMod q := by
  simp only [polyMod_eq_foldl]
  induction [6, 5, 4, 3, 2, 1, 0] generalizing p q with
  | nil => rfl
  | cons k l ih => rw [List.foldl_cons, reduceStep_xor, ih]; rfl

/-- A polynomial as an element of the field. -/
def fieldOf (p : Nat) : Byte := BitVec.ofNat 8 (polyMod p)

theorem fieldMul_eq_fieldOf (a b : Byte) : fieldMul a b = fieldOf (polyMul a.toNat b.toNat) := rfl

theorem fieldOf_xor (p q : Nat) : fieldOf (p ^^^ q) = fieldOf p ^^^ fieldOf q := by
  rw [fieldOf, polyMod_xor, BitVec.ofNat_xor]; rfl

/-- Every byte is a sum of powers of `x`, the bytes with one bit (0 is the sum of one of them and itself). -/
theorem byte_induction {P : Byte → Prop} (hxor : ∀ a b, P a → P b → P (a ^^^ b))
    (hbasis : ∀ j < 8, P (BitVec.twoPow 8 j)) (a : Byte) : P a := by
  suffices hbelow : ∀ n ≤ 8, ∀ b : Byte, (∀ i, n ≤ i → b.getLsbD i = false) → P b from
    hbelow 8 le_rfl a fun i hi => BitVec.getLsbD_of_ge a i hi
  intro n
  induction n with
  | zero =>
    intro _ b hb
    have hb0 : b = 0x00#8 := BitVec.eq_of_getLsbD_eq fun i _ => by rw [hb i i.zero_le, BitVec.getLsbD_zero]
    have hzero := hxor _ _ (hbasis 0 (by decide)) (hbasis 0 (by decide))
    rwa [BitVec.xor_self, ← hb0] at hzero
  | succ n ih =>
    intro hn b hb
    cases hbit : b.getLsbD n with
    | false =>
      refine ih (Nat.le_of_succ_le hn) b fun i hi => ?_
      obtain rfl | hlt := Nat.eq_or_lt_of_le hi
      · exact hbit
      · exact hb i hlt
    | true =>
      have hrest : P (b ^^^ BitVec.twoPow 8 n) := by
        refine ih (Nat.le_of_succ_le hn) _ fun i hi => ?_
        rw [BitVec.getLsbD_xor, BitVec.getLsbD_twoPow]
        obtain rfl | hlt := Nat.eq_or_lt_of_le hi
        · simp [hbit, Nat.lt_of_succ_le hn]
        · simp [hb i hlt, hlt.ne]
      have hsplit : b = b ^^^ BitVec.twoPow 8 n ^^^ BitVec.twoPow 8 n := by
        rw [BitVec.xor_assoc, BitVec.xor_self, BitVec.xor_zero]
      rw [hsplit]
      exact hxor _ _ hrest (hbasis n (Nat.lt_of_succ_le hn))

theorem fieldOf_shiftLeft_twoPow :
    ∀ i < 8, ∀ j < 8, fieldOf ((BitVec.twoPow 8 j).toNat <<< i) = xtime^[i] (BitVec.twoPow 8 j) := by decide

/-- Multiplication by `x^i` is `xtime` applied `i` times. Both are linear and agree at the powers of `x`. -/
theorem fieldOf_shiftLeft (a : Byte) {i : Nat} (hi : i < 8) : fieldOf (a.toNat <<< i) = xtime^[i] a := by
  induction a using byte_induction with
  | hxor a b ha hb => rw [BitVec.toNat_xor, Nat.shiftLeft_xor_distrib, fieldOf_xor, ha, hb, xtime_iterate_xor]
  | hbasis j hj => exact fieldOf_shiftLeft_twoPow i hi j hj

/-- A sum of terms, some of them left out. -/
theorem foldl_map_ite (p : Nat → Bool) (f : Nat → Nat) (l : List Nat) (x : Nat) :
    (l.map fun i => if p i then f i else 0).foldl (· ^^^ ·) x = (l.filter p).foldl (fun acc i => acc ^^^ f i) x := by
  induction l generalizing x with
  | nil => rfl
  | cons i l ih => cases h : p i <;> simp [h, ih]

theorem fieldMul_eq_xtimeSum (a b : Byte) : fieldMul a b = xtimeSum a ([0, 1, 2, 3, 4, 5, 6, 7].filter b.toNat.testBit) := by
  rw [fieldMul_eq_fieldOf, polyMul, foldl_map_ite, xtimeSum, ← List.foldl_hom fieldOf (g₂ := fun x i => x ^^^ fieldOf (a.toNat <<< i))
    fun x i => (fieldOf_xor x _).symm]
  refine List.foldl_ext _ _ _ fun x i hi => ?_
  have hi8 : i ∈ List.range 8 := List.mem_of_mem_filter hi
  rw [fieldOf_shiftLeft a (List.mem_range.1 hi8)]

/-- The constants of `GCONST` have no bit above bit 3. -/
theorem filter_testBit_toNat (k : GConst) :
    [0, 1, 2, 3, 4, 5, 6, 7].filter (BitVec.ofNat 8 k.toNat).toNat.testBit = [0, 1, 2, 3].filter k.toNat.testBit := by
  cases k <;> decide

theorem gmul_eq_fieldMul (a : Byte) (k : GConst) : gmul a k = fieldMul a (BitVec.ofNat 8 k.toNat) := by
  rw [gmul_eq_xtimeSum, fieldMul_eq_xtimeSum, filter_testBit_toNat]

/-- Settles O11: both multiplications are the same sum, and `xtime` is the one by the constant 2. -/
theorem unitMultipliesInField : Obligations.UnitMultipliesInField :=
  ⟨fun a => gmul_eq_fieldMul a .c2, gmul_eq_fieldMul⟩

theorem fieldMul_xor_left (a b c : Byte) : fieldMul (a ^^^ b) c = fieldMul a c ^^^ fieldMul b c := by
  simp only [fieldMul_eq_xtimeSum, xtimeSum_xor]

/-- The inverse of a constant of `GCONST` in the field. -/
def inverseConst : GConst → Byte
  | .c1 => 0x01#8
  | .c2 => 0x8d#8
  | .c3 => 0xf6#8
  | .c9 => 0x4f#8
  | .cb => 0xc0#8
  | .cd => 0xe1#8
  | .ce => 0xe5#8

theorem fieldMul_gmul_inverseConst_twoPow (k : GConst) :
    ∀ j < 8, fieldMul (gmul (BitVec.twoPow 8 j) k) (inverseConst k) = BitVec.twoPow 8 j := by
  cases k <;> decide

/-- Multiplication by the inverse undoes `gmul`. Both sides are linear and agree at the powers of `x`. -/
theorem fieldMul_gmul_inverseConst (a : Byte) (k : GConst) : fieldMul (gmul a k) (inverseConst k) = a := by
  induction a using byte_induction with
  | hxor a b ha hb => rw [gmul_xor, fieldMul_xor_left, ha, hb]
  | hbasis j hj => exact fieldMul_gmul_inverseConst_twoPow k j hj

theorem bijective_gmul (k : GConst) : Function.Bijective fun a => gmul a k := by
  have hinverse : Function.LeftInverse (fieldMul · (inverseConst k)) fun a => gmul a k := fun a => fieldMul_gmul_inverseConst a k
  exact Finite.injective_iff_bijective.1 hinverse.injective

/-- Settles O12: linearity, the values at 0 and 1, and the bijections, of which `xtime` is the one by the constant 2. -/
theorem galoisLaws : Obligations.GaloisLaws :=
  ⟨fun _ => BitVec.xor_self, fun _ => BitVec.xor_zero, fun a b => (xtime_xor a b).symm, gmul_xor, rfl, gmul_zero, gmul_c1, gmul_one,
    bijective_gmul .c2, rfl, bijective_gmul⟩

end Sys2Proof.Machine
end

section
/-! PROOFS about 40_gf_arithmetic.md section 4: the commands XTIME and GMUL, what they write and what they leave. -/

namespace Sys2Proof.Machine

theorem exec_xtime_of_GFA {s : State} {a b : Byte} (h : s.GFA = a) (hb : xtime a = b) :
    exec .xtime s = .next { s with GFR := b, ERR := 0x00#8 } := by
  subst h hb
  rfl

/-- Settles O13: the command in general, then at the four operands. -/
theorem xtimeCommand : Obligations.XtimeCommand :=
  ⟨rfl, fun _ => exec_xtime_of_GFA rfl rfl, fun _ h => exec_xtime_of_GFA h rfl, fun _ h => exec_xtime_of_GFA h rfl,
    fun _ h => exec_xtime_of_GFA h rfl, fun _ h => exec_xtime_of_GFA h rfl⟩

theorem exec_gmul_of_GFA {s : State} {a b : Byte} {k : GConst} (h : s.GFA = a) (hb : gmul a k = b) :
    exec (.gmul k.toNat) s = .next { s with GFR := b, ERR := 0x00#8 } := by
  subst h hb
  exact execGmul_ok (selectConst_toNat k) s

/-- Settles O14: the sixteen bytes, the seven constants, the other operands, then the cases of R115. -/
theorem gmulCommand : Obligations.GmulCommand :=
  ⟨fun c _ => (BitVec.ofNat_add 0x80 c).symm, fun _ _ => exec_gmul_of_GFA rfl rfl,
    fun s _ h => execGmul_bad (selectConst_eq_none h) s, fun _ => exec_gmul_of_GFA (k := .c1) rfl rfl, fun _ => rfl,
    fun _ k h => exec_gmul_of_GFA h (gmul_zero k), fun _ h => exec_gmul_of_GFA (k := .c2) h rfl,
    fun _ h => exec_gmul_of_GFA (k := .c3) h rfl⟩

/-- XTIME and GMUL write `GFR` and `ERR`, whether they complete or are rejected (40_gf_arithmetic.md R114, R115). -/
theorem exec_galois_cases {i : Instr} {s t : State} (hi : i = .xtime ∨ ∃ c, i = .gmul c) (h : exec i s = .next t) :
    ∃ g e, t = { s with GFR := g, ERR := e } := by
  obtain rfl | ⟨c, rfl⟩ := hi
  · cases h
    exact ⟨_, _, rfl⟩
  · rw [exec_gmul] at h
    cases hc : selectConst c with
    | none => cases (execGmul_bad hc s).symm.trans h; exact ⟨_, _, rfl⟩
    | some k => cases (execGmul_ok hc s).symm.trans h; exact ⟨_, _, rfl⟩

/-- The registers `GFR` and `ERR` are seen at their own locations and, as bit 2, in `STATUS` (10_state.md R29, R32, R33). -/
theorem readLocation_withGFR_withERR (s : State) (g e : Byte) {l : Location} (hgfr : l ≠ .gfr) (herr : l.isErr = false) :
    readLocation ((s.withGFR g).withERR e) l = readLocation s l := by
  cases l with
  | gfr => exact absurd rfl hgfr
  | err | status => cases herr
  | _ => rfl

/-- Settles O15: the two registers that can change, and the locations that do not show them. -/
theorem galoisCommandsFrame : Obligations.GaloisCommandsFrame := by
  intro i s t hi h
  obtain ⟨g, e, rfl⟩ := exec_galois_cases hi h
  exact ⟨rfl, fun a => readLocation_withGFR_withERR s g e⟩

end Sys2Proof.Machine
end

section
/-! PROOFS about 41_round_transforms.md section 1 and R147: the six commands that cannot fail, each the application of one transform
to `S`. -/

namespace Sys2Proof.Machine

/-- The command `i` applies `f` to `S` and reports success, in every state. -/
def AppliesToS (i : Instr) (f : Block → Block) : Prop := ∀ s, exec i s = .next (transformS f s)

theorem appliesToS_subbytes : AppliesToS .subbytes subBytes := fun _ => rfl
theorem appliesToS_invsubbytes : AppliesToS .invsubbytes invSubBytes := fun _ => rfl
theorem appliesToS_shiftrows : AppliesToS .shiftrows shiftRows := fun _ => rfl
theorem appliesToS_invshiftrows : AppliesToS .invshiftrows invShiftRows := fun _ => rfl
theorem appliesToS_mixcolumns : AppliesToS .mixcolumns mixColumns := fun _ => rfl
theorem appliesToS_invmixcolumns : AppliesToS .invmixcolumns invMixColumns := fun _ => rfl

section
variable {i : Instr} {f : Block → Block} {s : State}

theorem AppliesToS.exec_of_S (h : AppliesToS i f) {m m' : Block} (hs : s.S = m) (hf : f m = m') :
    exec i s = .next { s with S := m', ERR := 0x00#8 } := by
  rw [h, transformS_eq, hs, hf]

theorem AppliesToS.exec_eq (h : AppliesToS i f) (s : State) : exec i s = .next { s with S := f s.S, ERR := 0x00#8 } :=
  h.exec_of_S rfl rfl

theorem AppliesToS.exec_of_fixed (h : AppliesToS i f) (hf : f s.S = s.S) : exec i s = .next { s with ERR := 0x00#8 } :=
  h.exec_of_S rfl hf

/-- One command or more in a row apply the iterate of the transform. -/
theorem AppliesToS.execList_replicate (h : AppliesToS i f) (n : Nat) {m : Block} (hm : f^[n + 1] s.S = m) :
    execList (List.replicate (n + 1) i) s = .next { s with S := m, ERR := 0x00#8 } := by
  induction n generalizing s with
  | zero => exact execList_cons [] (h.exec_of_S rfl hm)
  | succ n ih =>
    rw [List.replicate_succ, execList_cons _ (h.exec_eq s)]
    exact ih hm

end

@[simp] theorem blockAt_constBlock (v : Byte) (r c : Fin 4) : blockAt (constBlock v) r c = v := blockAt_blockOf _ r c

end Sys2Proof.Machine
end

section
/-! PROOFS about 41_round_transforms.md R130 to R133: SUBBYTES and INVSUBBYTES. -/

namespace Sys2Proof.Machine

theorem subBytes_constBlock (v : Byte) : subBytes (constBlock v) = constBlock (SBOX v) :=
  block_ext fun r c => by rw [blockAt_subBytes, blockAt_constBlock, blockAt_constBlock]

theorem invSubBytes_constBlock (v : Byte) : invSubBytes (constBlock v) = constBlock (INVSBOX v) :=
  block_ext fun r c => by rw [blockAt_invSubBytes, blockAt_constBlock, blockAt_constBlock]

/-- Settles O16: the bytes in general, of which none is a fixed point of the table, then the three states of R131. -/
theorem subbytesCommand : Obligations.SubbytesCommand := by
  have happly := appliesToS_subbytes
  refine ⟨rfl, fun s => ⟨_, happly.exec_eq s, blockAt_subBytes s.S, fun r c => ?_⟩,
    fun s h => happly.exec_of_S h (subBytes_constBlock _),
    fun s h => happly.exec_of_S h (subBytes_constBlock _),
    fun s h => happly.exec_of_S h (by decide)⟩
  rw [blockAt_subBytes]
  exact SBOX_ne_self _

/-- Settles O17: the bytes in general, then the four states of R133. -/
theorem invsubbytesCommand : Obligations.InvsubbytesCommand := by
  have happly := appliesToS_invsubbytes
  exact ⟨rfl, fun s => ⟨_, happly.exec_eq s, blockAt_invSubBytes s.S⟩,
    fun _ h => happly.exec_of_S h (invSubBytes_constBlock _),
    fun _ h => happly.exec_of_S h (invSubBytes_constBlock _),
    fun _ h => happly.exec_of_S h (by decide),
    fun _ h => happly.exec_of_S h (by decide)⟩

end Sys2Proof.Machine
end

section
/-! PROOFS about 41_round_transforms.md R134 to R137: SHIFTROWS and INVSHIFTROWS, the rotations of the rows. -/

namespace Sys2Proof.Machine

/-- R134 in the byte-sequence view: a step of one column is a step of four bytes. -/
theorem blockByte_shiftRows (m : Block) (i : Fin 16) :
    blockByte (shiftRows m) i = blockByte m (Fin.ofNat 16 (i.val + 4 * (i.val % 4))) := by
  have hplace : ∀ i : Fin 16, let j := Fin.ofNat 16 (i.val + 4 * (i.val % 4))
      rowOf j = rowOf i ∧ colOf j = colOf i + rowOf i := by decide
  obtain ⟨hrow, hcol⟩ := hplace i
  rw [blockByte, blockAt_shiftRows, blockByte, hrow, hcol]

/-- R136 in the byte-sequence view. -/
theorem blockByte_invShiftRows (m : Block) (i : Fin 16) :
    blockByte (invShiftRows m) i = blockByte m (Fin.ofNat 16 (i.val + 16 - 4 * (i.val % 4))) := by
  have hplace : ∀ i : Fin 16, let j := Fin.ofNat 16 (i.val + 16 - 4 * (i.val % 4))
      rowOf j = rowOf i ∧ colOf j = colOf i - rowOf i := by decide
  obtain ⟨hrow, hcol⟩ := hplace i
  rw [blockByte, blockAt_invShiftRows, blockByte, hrow, hcol]

/-- In a block of equal columns all elements of a row are equal, so no rotation of the rows shows. -/
theorem blockAt_of_col_eq {m : Block} (h : ∀ c, m.col c = m.col 0) (r c c' : Fin 4) : blockAt m r c = blockAt m r c' := by
  rw [blockAt, blockAt, h c, h c']

theorem shiftRows_of_col_eq {m : Block} (h : ∀ c, m.col c = m.col 0) : shiftRows m = m :=
  block_ext fun r c => (blockAt_shiftRows m r c).trans (blockAt_of_col_eq h r _ _)

theorem invShiftRows_of_col_eq {m : Block} (h : ∀ c, m.col c = m.col 0) : invShiftRows m = m :=
  block_ext fun r c => (blockAt_invShiftRows m r c).trans (blockAt_of_col_eq h r _ _)

/-- Rotations add up: `n` SHIFTROWS rotate row `r` by `n * r` places. -/
theorem blockAt_shiftRows_iterate (n : Nat) (m : Block) (r c : Fin 4) : blockAt (shiftRows^[n] m) r c = blockAt m r (c + n • r) := by
  induction n generalizing m with
  | zero => rw [zero_nsmul, add_zero]; rfl
  | succ n ih => rw [Function.iterate_succ_apply, ih, blockAt_shiftRows, succ_nsmul, add_assoc]

/-- Four rotations by one place are none: places are counted modulo 4. -/
theorem four_nsmul_place (r : Fin 4) : 4 • r = 0 := by revert r; decide

theorem shiftRows_iterate_four : shiftRows^[4] = id :=
  funext fun m => block_ext fun r c => by rw [blockAt_shiftRows_iterate, four_nsmul_place, add_zero, id]

/-- A rotation by `r` places to the right is three to the left (41_round_transforms.md R137). -/
theorem invShiftRows_eq_iterate_three : invShiftRows = shiftRows^[3] := by
  refine funext fun m => block_ext fun r c => ?_
  have hplace : c - r = c + 3 • r := by
    rw [sub_eq_iff_eq_add, add_assoc, ← succ_nsmul, four_nsmul_place, add_zero]
  rw [blockAt_invShiftRows, blockAt_shiftRows_iterate, hplace]

theorem invShiftRows_iterate_four : invShiftRows^[4] = id := by
  rw [invShiftRows_eq_iterate_three, ← Function.iterate_mul, Nat.mul_comm, Function.iterate_mul, shiftRows_iterate_four,
    Function.iterate_id]

/-- Row 2 is rotated by two places either way (41_round_transforms.md R137). -/
theorem blockAt_invShiftRows_row_two (m : Block) (c : Fin 4) : blockAt (invShiftRows m) 2 c = blockAt (shiftRows m) 2 c := by
  have hplace : c - 2 = c + 2 := by revert c; decide
  rw [blockAt_invShiftRows, blockAt_shiftRows, hplace]

/-- Settles O18: both views, the states that stay, and the two examples. -/
theorem shiftrowsCommand : Obligations.ShiftrowsCommand := by
  have happly := appliesToS_shiftrows
  exact ⟨rfl, fun s => ⟨_, happly.exec_eq s, blockAt_shiftRows s.S, blockByte_shiftRows s.S⟩,
    fun _ h => happly.exec_of_fixed (shiftRows_of_col_eq h),
    fun s => happly.execList_replicate 3 (congrFun shiftRows_iterate_four s.S),
    fun _ h => happly.exec_of_S h (by decide), fun _ h => happly.exec_of_S h (by decide)⟩

/-- Settles O19: both views, the states that stay, the three rotations it equals, and the two examples. -/
theorem invshiftrowsCommand : Obligations.InvshiftrowsCommand := by
  have happly := appliesToS_invshiftrows
  refine ⟨rfl, fun s => ⟨_, happly.exec_eq s, fun r c => ?_, blockByte_invShiftRows s.S,
      blockAt_invShiftRows_row_two s.S⟩,
    fun s h => happly.exec_of_fixed (invShiftRows_of_col_eq h),
    fun s => happly.execList_replicate 3 (congrFun invShiftRows_iterate_four s.S), fun s => ?_,
    fun s h => happly.exec_of_S h (by decide), fun s h => happly.exec_of_S h (by decide)⟩
  · have hplace : c - r = Fin.ofNat 4 (c.val + 4 - r.val) := by revert r c; decide
    rw [blockAt_invShiftRows, hplace]
  · rw [happly.exec_eq]
    exact (AppliesToS.execList_replicate appliesToS_shiftrows 2 (congrFun invShiftRows_eq_iterate_three s.S).symm).symm

end Sys2Proof.Machine
end

section
/-! PROOFS about 41_round_transforms.md R138 to R141: MixColumns and InvMixColumns as products by a matrix over GF(2^8), and their
commands. -/

namespace Sys2Proof.Machine

/-- The sum of four bytes in the field. -/
def xorSum (f : Fin 4 → Byte) : Byte := f 0 ^^^ f 1 ^^^ f 2 ^^^ f 3

theorem xorSum_eq (f : Fin 4 → Byte) : xorSum f = f 0 ^^^ f 1 ^^^ f 2 ^^^ f 3 := rfl

theorem xorSum_xor (f g : Fin 4 → Byte) : xorSum (fun k => f k ^^^ g k) = xorSum f ^^^ xorSum g := by
  dsimp only [xorSum_eq]; ac_rfl

theorem xorSum_comm (f : Fin 4 → Fin 4 → Byte) : (xorSum fun j => xorSum fun k => f j k) = xorSum fun k => xorSum fun j => f j k := by
  dsimp only [xorSum_eq]; ac_rfl

theorem xorSum_ite_eq (r : Fin 4) (f : Fin 4 → Byte) : (xorSum fun k => if r = k then f k else 0x00#8) = f r := by
  fin_cases r <;> simp [xorSum_eq]

theorem gmul_xorSum (f : Fin 4 → Byte) (k : GConst) : gmul (xorSum f) k = xorSum fun j => gmul (f j) k := by
  rw [xorSum_eq, gmul_xor, gmul_xor, gmul_xor]; rfl

/-- Two linear functions on the field are equal when they agree at the powers of `x`. -/
theorem eq_of_linear_of_twoPow {f g : Byte → Byte} (hf : ∀ a b, f (a ^^^ b) = f a ^^^ f b) (hg : ∀ a b, g (a ^^^ b) = g a ^^^ g b)
    (h : ∀ j < 8, f (BitVec.twoPow 8 j) = g (BitVec.twoPow 8 j)) (a : Byte) : f a = g a := by
  induction a using byte_induction with
  | hxor a b ha hb => rw [hf, hg, ha, hb]
  | hbasis j hj => exact h j hj

/-- The product of a matrix of constants of `GCONST` and a column. -/
def gmulMatrix (K : Fin 4 → Fin 4 → GConst) (w : Word) : Word := Word.ofFn fun r => xorSum fun k => gmul (w.get k) (K r k)

@[simp] theorem get_gmulMatrix (K : Fin 4 → Fin 4 → GConst) (w : Word) (r : Fin 4) :
    (gmulMatrix K w).get r = xorSum fun k => gmul (w.get k) (K r k) := Word.get_ofFn _ r

/-- The reference product of the statements, which multiplies modulo 0x11B (40_gf_arithmetic.md R111). -/
theorem get_gmulMatrix_eq_matrixTimes {K : Fin 4 → Fin 4 → GConst} {coef : Fin 4 → Fin 4 → Byte}
    (h : ∀ r k, coef r k = BitVec.ofNat 8 (K r k).toNat) (w : Word) (r : Fin 4) :
    (gmulMatrix K w).get r = matrixTimes coef w.get r := by
  have hterms : (fun k => gmul (w.get k) (K r k)) = fun k => fieldMul (w.get k) (coef r k) :=
    funext fun k => by rw [gmul_eq_fieldMul, h]
  rw [get_gmulMatrix, hterms]
  rfl

/-- The constants of every row of `K` sum to 1, as they act on the powers of `x`. -/
abbrev RowsSumToOne (K : Fin 4 → Fin 4 → GConst) : Prop :=
  ∀ r, ∀ j < 8, (xorSum fun k => gmul (BitVec.twoPow 8 j) (K r k)) = BitVec.twoPow 8 j

theorem RowsSumToOne.xorSum_gmul {K : Fin 4 → Fin 4 → GConst} (h : RowsSumToOne K) (r : Fin 4) (a : Byte) :
    (xorSum fun k => gmul a (K r k)) = a :=
  eq_of_linear_of_twoPow (f := fun a => xorSum fun k => gmul a (K r k)) (g := id)
    (fun a b => (congrArg xorSum (funext fun k => gmul_xor a b (K r k))).trans (xorSum_xor _ _)) (fun _ _ => rfl) (h r) a

/-- Such a matrix leaves a column of four equal bytes as it is. -/
theorem RowsSumToOne.gmulMatrix_of_get_eq {K : Fin 4 → Fin 4 → GConst} (h : RowsSumToOne K) {w : Word}
    (hw : ∀ r, w.get r = w.get 0) : gmulMatrix K w = w := by
  refine Word.ext_get fun r => ?_
  have hcol : w.get = fun _ => w.get r := funext fun k => (hw k).trans (hw r).symm
  rw [get_gmulMatrix, hcol]
  exact h.xorSum_gmul r _

/-- `N` times `M` is the identity matrix, entry by entry, as it acts on the powers of `x`. -/
abbrev LeftInverseMatrix (N M : Fin 4 → Fin 4 → GConst) : Prop :=
  ∀ r k, ∀ j < 8, (xorSum fun i => gmul (gmul (BitVec.twoPow 8 j) (M i k)) (N r i)) = if r = k then BitVec.twoPow 8 j else 0x00#8

theorem LeftInverseMatrix.xorSum_gmul_gmul {N M : Fin 4 → Fin 4 → GConst} (h : LeftInverseMatrix N M) (r k : Fin 4) (a : Byte) :
    (xorSum fun i => gmul (gmul a (M i k)) (N r i)) = if r = k then a else 0x00#8 :=
  eq_of_linear_of_twoPow (f := fun a => xorSum fun i => gmul (gmul a (M i k)) (N r i)) (g := fun a => if r = k then a else 0x00#8)
    (fun a b => (congrArg xorSum (funext fun i => by rw [gmul_xor, gmul_xor])).trans (xorSum_xor _ _))
    (fun a b => by split <;> rfl) (h r k) a

/-- On any column, multiplying by `M` and then by `N` is multiplying by their product, the identity. -/
theorem LeftInverseMatrix.gmulMatrix_gmulMatrix {N M : Fin 4 → Fin 4 → GConst} (h : LeftInverseMatrix N M) (w : Word) :
    gmulMatrix N (gmulMatrix M w) = w := by
  refine Word.ext_get fun r => ?_
  calc (gmulMatrix N (gmulMatrix M w)).get r
      = xorSum fun i => xorSum fun k => gmul (gmul (w.get k) (M i k)) (N r i) := by
        rw [get_gmulMatrix]
        exact congrArg xorSum (funext fun i => by rw [get_gmulMatrix, gmul_xorSum])
    _ = xorSum fun k => xorSum fun i => gmul (gmul (w.get k) (M i k)) (N r i) := xorSum_comm _
    _ = xorSum fun k => if r = k then w.get k else 0x00#8 :=
        congrArg xorSum (funext fun k => h.xorSum_gmul_gmul r k (w.get k))
    _ = w.get r := xorSum_ite_eq r w.get

/-- The fixed matrix of MixColumns: each row is the one above it, moved one place to the right (41_round_transforms.md R138). -/
def mixConst (r k : Fin 4) : GConst :=
  match k - r with
  | 0 => .c2
  | 1 => .c3
  | 2 => .c1
  | 3 => .c1

/-- The fixed matrix of InvMixColumns, of the same shape (41_round_transforms.md R140). -/
def invMixConst (r k : Fin 4) : GConst :=
  match k - r with
  | 0 => .ce
  | 1 => .cb
  | 2 => .cd
  | 3 => .c9

theorem mixColumn_eq_gmulMatrix (w : Word) : mixColumn w = gmulMatrix mixConst w := rfl

theorem invMixColumn_eq_gmulMatrix (w : Word) : invMixColumn w = gmulMatrix invMixConst w := rfl

theorem mixMatrix_eq_ofNat : ∀ r k, mixMatrix r k = BitVec.ofNat 8 (mixConst r k).toNat := by decide

theorem invMixMatrix_eq_ofNat : ∀ r k, invMixMatrix r k = BitVec.ofNat 8 (invMixConst r k).toNat := by decide

theorem rowsSumToOne_mixConst : RowsSumToOne mixConst := by decide

theorem rowsSumToOne_invMixConst : RowsSumToOne invMixConst := by decide

theorem leftInverseMatrix_invMixConst_mixConst : LeftInverseMatrix invMixConst mixConst := by decide

theorem invMixColumn_mixColumn (w : Word) : invMixColumn (mixColumn w) = w :=
  LeftInverseMatrix.gmulMatrix_gmulMatrix leftInverseMatrix_invMixConst_mixConst w

/-- An injective map of the finitely many words to themselves has the same inverse on both sides. -/
theorem mixColumn_invMixColumn (w : Word) : mixColumn (invMixColumn w) = w := by
  have hfinite : Finite Word := Finite.of_injective Word.get fun _ _ h => Word.ext_get (congrFun h)
  have hleft : Function.LeftInverse invMixColumn mixColumn := invMixColumn_mixColumn
  exact hleft.rightInverse_of_surjective (Finite.injective_iff_surjective.1 hleft.injective) w

/-- Settles O20: the product by the fixed matrix, the columns that stay, and the three examples. -/
theorem mixcolumnsCommand : Obligations.MixcolumnsCommand := by
  have happly := appliesToS_mixcolumns
  refine ⟨rfl, fun s => ⟨_, happly.exec_eq s, fun r c => ?_, fun c h => ?_⟩,
    fun s h => happly.exec_of_S h (by decide), fun s h => happly.exec_of_S h (by decide),
    fun s h => happly.exec_of_S h (by decide)⟩
  · rw [blockAt_mixColumns, mixColumn_eq_gmulMatrix]
    exact get_gmulMatrix_eq_matrixTimes mixMatrix_eq_ofNat (s.S.col c) r
  · rw [col_mixColumns, mixColumn_eq_gmulMatrix]
    exact RowsSumToOne.gmulMatrix_of_get_eq rowsSumToOne_mixConst h

/-- Settles O21: as for MIXCOLUMNS, with the inverse matrix. -/
theorem invmixcolumnsCommand : Obligations.InvmixcolumnsCommand := by
  have happly := appliesToS_invmixcolumns
  refine ⟨rfl, fun s => ⟨_, happly.exec_eq s, fun r c => ?_, fun c h => ?_⟩,
    fun s h => happly.exec_of_S h (by decide), fun s h => happly.exec_of_S h (by decide),
    fun s h => happly.exec_of_S h (by decide)⟩
  · rw [blockAt_invMixColumns, invMixColumn_eq_gmulMatrix]
    exact get_gmulMatrix_eq_matrixTimes invMixMatrix_eq_ofNat (s.S.col c) r
  · rw [col_invMixColumns, invMixColumn_eq_gmulMatrix]
    exact RowsSumToOne.gmulMatrix_of_get_eq rowsSumToOne_invMixConst h

end Sys2Proof.Machine
end

section
/-! PROOFS about 41_round_transforms.md R142 and R143: ADDROUNDKEY. -/

namespace Sys2Proof.Machine

theorem blockByte_addRoundKey (m k : Block) (i : Fin 16) : blockByte (addRoundKey m k) i = blockByte m i ^^^ blockByte k i :=
  blockAt_addRoundKey m k (rowOf i) (colOf i)

theorem addRoundKey_zero (m : Block) : addRoundKey m (constBlock 0x00#8) = m :=
  block_ext fun r c => by rw [blockAt_addRoundKey, blockAt_constBlock, BitVec.xor_zero]

theorem addRoundKey_addRoundKey (m k : Block) : addRoundKey (addRoundKey m k) k = m :=
  block_ext fun r c => by rw [blockAt_addRoundKey, blockAt_addRoundKey, BitVec.xor_assoc, BitVec.xor_self, BitVec.xor_zero]

theorem exec_addroundkey_of_le {s : State} {n : Fin 15} (hv : s.RKV = true) (hn : n.val ≤ nrOf s.KLEN) :
    exec (.addroundkey n.val) s = .next { s with S := addRoundKey s.S s.RK[n], ERR := 0x00#8 } :=
  execAddroundkey_ok hv (selectRoundKey_eq_some hn n.isLt)

/-- The second of two equal ADDROUNDKEY finds the same round key, and takes it off again. -/
theorem execList_addroundkey_twice {s : State} {n : Fin 15} (hv : s.RKV = true) (hn : n.val ≤ nrOf s.KLEN) :
    execList [.addroundkey n.val, .addroundkey n.val] s = .next { s with ERR := 0x00#8 } := by
  have hagain := exec_addroundkey_of_le (s := { s with S := addRoundKey s.S s.RK[n], ERR := 0x00#8 }) hv hn
  rw [execList_cons _ (exec_addroundkey_of_le hv hn), execList_cons [] hagain]
  simp only [execList_nil, addRoundKey_addRoundKey]

/-- Round key 0 is the first sixteen bytes of the key (42_key_schedule.md R169). -/
theorem roundKeyOf_keyExpansion_zero (key : Vector Byte 32) {nk : Nat} (h4 : 4 ≤ nk) (h8 : nk ≤ 8) :
    roundKeyOf (keyExpansion key nk) 0 = blockOfBytes fun i => key[i.val] := by
  refine block_ext fun r c => ?_
  rw [blockAt_blockOfBytes, ← blockByte_seqIndex, blockByte_roundKeyOf_keyExpansion key h8 _ (by omega)]
  simp

/-- The worked example of R143: the key is still in place when `KEYEXPAND` has filled `RK`. -/
theorem exec_keyexpand_addroundkey_zero {s : State} (hs : klenLegal s.KLEN = true) :
    ∃ t, execList [.keyexpand, .addroundkey 0] s = .next t ∧ t.S = addRoundKey s.S (blockOfBytes fun i => s.KEY[i.val]) := by
  obtain ⟨h4, h8⟩ : 4 ≤ nkOf s.KLEN ∧ nkOf s.KLEN ≤ 8 := by
    obtain ⟨-, h, -⟩ | ⟨-, h, -⟩ | ⟨-, h, -⟩ := klenLegal_cases hs <;> omega
  refine ⟨_, (execList_cons _ ((exec_keyexpand s).trans (execKeyexpand_legal hs))).trans
    (execList_cons [] (exec_addroundkey_of_le (n := 0) rfl (Nat.zero_le _))), ?_⟩
  simp [roundKeyOf_keyExpansion_zero s.KEY h4 h8]

/-- Settles O22: the two checks, the result with its corner cases, and the worked example. -/
theorem addroundkeyCommand : Obligations.AddroundkeyCommand := by
  refine ⟨fun n _ => (BitVec.ofNat_add 0x60 n).symm, fun s n hv => execAddroundkey_noKey n hv,
    fun s n hv hn => execAddroundkey_badIndex hv (selectRoundKey_eq_none (.inl hn)),
    fun s _ hv => execAddroundkey_badIndex hv (selectRoundKey_eq_none (.inr le_rfl)),
    fun s n hv hn => ⟨_, exec_addroundkey_of_le hv hn, blockByte_addRoundKey s.S s.RK[n], fun hzero => ?_,
      execList_addroundkey_twice hv hn⟩, fun s hklen hkey hS => ?_⟩
  · rw [hzero, addRoundKey_zero]
  · obtain ⟨t, ht, htS⟩ := exec_keyexpand_addroundkey_zero (s := s) (by rw [hklen]; rfl)
    refine ⟨t, ht, ?_⟩
    rw [htS, hS, hkey]
    decide

end Sys2Proof.Machine
end

section
/-! PROOFS about 41_round_transforms.md R145: the inverse and commuting laws. -/

namespace Sys2Proof.Machine

theorem invSubBytes_subBytes (m : Block) : invSubBytes (subBytes m) = m :=
  block_ext fun r c => by rw [blockAt_invSubBytes, blockAt_subBytes, INVSBOX_SBOX]

theorem subBytes_invSubBytes (m : Block) : subBytes (invSubBytes m) = m :=
  block_ext fun r c => by rw [blockAt_subBytes, blockAt_invSubBytes, SBOX_INVSBOX]

theorem invShiftRows_shiftRows (m : Block) : invShiftRows (shiftRows m) = m :=
  block_ext fun r c => by rw [blockAt_invShiftRows, blockAt_shiftRows, sub_add_cancel]

theorem shiftRows_invShiftRows (m : Block) : shiftRows (invShiftRows m) = m :=
  block_ext fun r c => by rw [blockAt_shiftRows, blockAt_invShiftRows, add_sub_cancel_right]

theorem invMixColumns_mixColumns (m : Block) : invMixColumns (mixColumns m) = m :=
  Block.ext_col fun c => by rw [col_invMixColumns, col_mixColumns, invMixColumn_mixColumn]

theorem mixColumns_invMixColumns (m : Block) : mixColumns (invMixColumns m) = m :=
  Block.ext_col fun c => by rw [col_mixColumns, col_invMixColumns, mixColumn_invMixColumn]

/-- A substitution of bytes and a rotation of rows commute, since one keeps every place and the other every value. -/
theorem shiftRows_subBytes (m : Block) : shiftRows (subBytes m) = subBytes (shiftRows m) :=
  block_ext fun r c => by rw [blockAt_shiftRows, blockAt_subBytes, blockAt_subBytes, blockAt_shiftRows]

theorem invShiftRows_invSubBytes (m : Block) : invShiftRows (invSubBytes m) = invSubBytes (invShiftRows m) :=
  block_ext fun r c => by rw [blockAt_invShiftRows, blockAt_invSubBytes, blockAt_invSubBytes, blockAt_invShiftRows]

/-- Settles O23: the seven inverse laws and the two pairs that commute; for each other pair a block with one byte that is not zero. -/
theorem transformInverseLaws : Obligations.TransformInverseLaws :=
  ⟨invSubBytes_subBytes, subBytes_invSubBytes, invShiftRows_shiftRows, shiftRows_invShiftRows, invMixColumns_mixColumns,
    mixColumns_invMixColumns, addRoundKey_addRoundKey, shiftRows_subBytes, invShiftRows_invSubBytes,
    ⟨hexBlock 0x01000000000000000000000000000000, by decide⟩,
    ⟨hexBlock 0x01000000000000000000000000000000, by decide⟩,
    ⟨hexBlock 0, hexBlock 0x01000000000000000000000000000000, by decide⟩,
    ⟨hexBlock 0, hexBlock 0x00010000000000000000000000000000, by decide⟩,
    ⟨hexBlock 0, hexBlock 0x01000000000000000000000000000000, by decide⟩⟩

end Sys2Proof.Machine
end

section
/-! PROOFS about 41_round_transforms.md section 5 and R146: the lanes of the transforms. -/

namespace Sys2Proof.Machine

theorem blockByte_subBytes (m : Block) (i : Fin 16) : blockByte (subBytes m) i = SBOX (blockByte m i) :=
  blockAt_subBytes m (rowOf i) (colOf i)

theorem blockByte_invSubBytes (m : Block) (i : Fin 16) : blockByte (invSubBytes m) i = INVSBOX (blockByte m i) :=
  blockAt_invSubBytes m (rowOf i) (colOf i)

/-- A rotation of the places of a row keeps how often each byte is in it. -/
theorem count_map_row_perm (σ : Equiv.Perm (Fin 4)) {row row' : Fin 4 → Byte} (h : ∀ c, row' c = row (σ c)) (v : Byte) :
    ((List.finRange 4).map row').count v = ((List.finRange 4).map row).count v := by
  have hmap : (List.finRange 4).map row' = ((List.finRange 4).map σ).map row := by
    rw [List.map_map]
    exact List.map_congr_left fun c _ => h c
  rw [hmap]
  exact (σ.map_finRange_perm.map row).count_eq v

/-- Settles O24: bytes, rows, the contents of the rows, columns. -/
theorem transformLanes : Obligations.TransformLanes := by
  refine ⟨fun m n k i h => ⟨?_, ?_, ?_⟩, fun m n r h c => ⟨?_, ?_⟩, fun m r v => ⟨?_, ?_⟩, fun m n c h => ⟨?_, ?_⟩⟩
  · rw [blockByte_subBytes, blockByte_subBytes, h]
  · rw [blockByte_invSubBytes, blockByte_invSubBytes, h]
  · rw [blockByte_addRoundKey, blockByte_addRoundKey, h]
  · rw [blockAt_shiftRows, blockAt_shiftRows, h]
  · rw [blockAt_invShiftRows, blockAt_invShiftRows, h]
  · exact count_map_row_perm (Equiv.addRight r) (blockAt_shiftRows m r) v
  · exact count_map_row_perm (Equiv.subRight r) (blockAt_invShiftRows m r) v
  · rw [col_mixColumns, col_mixColumns, h]
  · rw [col_invMixColumns, col_invMixColumns, h]

end Sys2Proof.Machine
end

section
/-! PROOFS about 41_round_transforms.md R147: what the seven transform commands read, write and leave. -/

namespace Sys2Proof.Machine

theorem exists_appliesToS : ∀ i ∈ [Instr.subbytes, .invsubbytes, .shiftrows, .invshiftrows, .mixcolumns, .invmixcolumns],
    ∃ f, AppliesToS i f := by
  simp only [List.forall_mem_cons]
  exact ⟨⟨_, appliesToS_subbytes⟩, ⟨_, appliesToS_invsubbytes⟩, ⟨_, appliesToS_shiftrows⟩, ⟨_, appliesToS_invshiftrows⟩,
    ⟨_, appliesToS_mixcolumns⟩, ⟨_, appliesToS_invmixcolumns⟩, nofun⟩

/-- What ADDROUNDKEY `n` leaves in `S` and `ERR`, from the four registers it reads. -/
def addroundkeyWrites (n : Nat) (m : Block) (rk : Vector Block 15) (rkv : Bool) (klen : Byte) : Block × Byte :=
  if rkv then
    if h : n ≤ nrOf klen ∧ n < 15 then (addRoundKey m rk[n], okCode) else (m, errCode .eArg)
  else (m, errCode .eNokey)

theorem exec_addroundkey_eq (n : Nat) (s : State) :
    exec (.addroundkey n) s = .next { s with
      S := (addroundkeyWrites n s.S s.RK s.RKV s.KLEN).1
      ERR := (addroundkeyWrites n s.S s.RK s.RKV s.KLEN).2 } := by
  rw [exec_addroundkey]
  cases hv : s.RKV with
  | false => rw [execAddroundkey_noKey n hv]; simp [addroundkeyWrites, hv]
  | true =>
    by_cases h : n ≤ nrOf s.KLEN ∧ n < 15
    · obtain ⟨hn, h15⟩ := id h
      rw [execAddroundkey_ok hv (selectRoundKey_eq_some hn h15)]
      simp [addroundkeyWrites, hv, h]
    · rw [execAddroundkey_badIndex hv (selectRoundKey_eq_none (by omega))]
      simp [addroundkeyWrites, hv, h]

theorem exec_transform_cases {i : Instr} {s t : State} (hi : TransformCommand i) (h : exec i s = .next t) :
    ∃ m e, t = { s with S := m, ERR := e } := by
  obtain hmem | ⟨n, rfl⟩ := hi
  · obtain ⟨f, hf⟩ := exists_appliesToS i hmem
    cases (hf.exec_eq s).symm.trans h
    exact ⟨_, _, rfl⟩
  · cases (exec_addroundkey_eq n s).symm.trans h
    exact ⟨_, _, rfl⟩

/-- The registers `S` and `ERR` are seen in the two windows of `S`, at `ERR` and, as bit 2, in `STATUS` (10_state.md R21, R32, R33). -/
theorem readLocation_withS_withERR (s : State) (m : Block) (e : Byte) {l : Location} (hS : l.isState = false)
    (herr : l.isErr = false) : readLocation ((s.withS m).withERR e) l = readLocation s l := by
  cases l with
  | sb i | sm r c => cases hS
  | err | status => cases herr
  | _ => rfl

/-- Settles O25: what the six read, what ADDROUNDKEY reads, and the frame of all seven. -/
theorem transformCommandsFrame : Obligations.TransformCommandsFrame := by
  refine ⟨fun i hi => ?_, fun n => ⟨_, exec_addroundkey_eq n⟩, fun i s t hi h => ?_⟩
  · obtain ⟨f, hf⟩ := exists_appliesToS i hi
    exact ⟨f, hf.exec_eq⟩
  · obtain ⟨m, e, rfl⟩ := exec_transform_cases hi h
    exact ⟨rfl, fun a => readLocation_withS_withERR s m e⟩

end Sys2Proof.Machine
end

section
/-! PROOFS about 42_key_schedule.md sections 1 and 2: the length of an expansion, its first words, the recurrence of the others. -/

namespace Sys2Proof.Machine

/-- The word count of R160: the words of the key and those computed after them. -/
theorem length_keyExpansion (key : Vector Byte 32) {nk : Nat} (hnk : nk ≤ 8) : (keyExpansion key nk).length = 4 * (nk + 6 + 1) := by
  have hfit : nk ≤ 4 * (nk + 6 + 1) := by omega
  rw [keyExpansion, length_expandWords, length_initialWords key hnk, scheduleLength, Config.Nb, Nat.add_sub_of_le hfit]

/-- Word `c` of the key by the places of its bytes, as R163 writes it. -/
theorem keyColumn_eq (key : Vector Byte 32) (c : Fin 8) :
    keyColumn key c = ⟨key[4 * c.val], key[4 * c.val + 1], key[4 * c.val + 2], key[4 * c.val + 3]⟩ := by
  simp [keyColumn, Word.ofFn, keyIndex, Nat.add_comm]

/-- Settles O26: the count of R160 at the three key lengths, and the first words as columns of the key. -/
theorem keyExpansionStart : Obligations.KeyExpansionStart := by
  intro key nk hmem
  have hnk : nk ≤ 8 := by revert nk; decide
  refine ⟨?_, fun i hi => (wordAt_keyExpansion_lt key hnk i hi).trans (keyColumn_eq key i)⟩
  rw [length_keyExpansion key hnk]
  revert nk; decide

section
variable (key : Vector Byte 32) {nk i : Nat}

/-- Stopped before word `i`, the expansion already has every word below `i` in its final value (R166). -/
theorem wordAt_expandWords_initialWords {j : Nat} (hnk : nk ≤ 8) (hlo : nk ≤ i) (hhi : i < 4 * (nk + 6 + 1)) (hj : j < i) :
    wordAt (expandWords nk (i - nk) (initialWords key nk)) j = wordAt (keyExpansion key nk) j := by
  have hcount : scheduleLength nk - nk = (i - nk) + (4 * (nk + 6 + 1) - i) := by rw [scheduleLength, Config.Nb]; omega
  have hmade : j < (expandWords nk (i - nk) (initialWords key nk)).length := by
    rwa [length_expandWords, length_initialWords key hnk, Nat.add_sub_of_le hlo]
  rw [keyExpansion, hcount, expandWords_add, wordAt_expandWords_lt nk (4 * (nk + 6 + 1) - i) hmade]

/-- The recurrence of R164 on the finished schedule. -/
theorem wordAt_keyExpansion_of_le (hpos : 0 < nk) (hnk : nk ≤ 8) (hlo : nk ≤ i) (hhi : i < 4 * (nk + 6 + 1)) :
    wordAt (keyExpansion key nk) i =
      (wordAt (keyExpansion key nk) (i - nk)).xor (scheduleTemp nk i (wordAt (keyExpansion key nk) (i - 1))) := by
  have hplace : (initialWords key nk).length + (i - nk) = i := by rw [length_initialWords key hnk, Nat.add_sub_of_le hlo]
  have hnew : wordAt (keyExpansion key nk) i = nextWord nk (expandWords nk (i - nk) (initialWords key nk)) := by
    conv_lhs => rw [← hplace]
    exact wordAt_expandWords_new nk _ _ (by rw [scheduleLength, Config.Nb]; omega)
  rw [hnew, nextWord, length_expandWords, hplace, wordAt_expandWords_initialWords key hnk hlo hhi (by omega),
    wordAt_expandWords_initialWords key hnk hlo hhi (by omega)]

end

/-- `temp` of R164, byte by byte. -/
theorem scheduleTemp_eq (nk i : Nat) (prev : Word) :
    scheduleTemp nk i prev =
      if i % nk = 0 then ⟨SBOX prev.a1 ^^^ RCON (i / nk - 1), SBOX prev.a2, SBOX prev.a3, SBOX prev.a0⟩
      else if nk = 8 ∧ i % nk = 4 then ⟨SBOX prev.a0, SBOX prev.a1, SBOX prev.a2, SBOX prev.a3⟩
      else prev := rfl

/-- Settles O27: the two word functions by their definitions, and the recurrence with `temp` written out. -/
theorem keyExpansionRecurrence : Obligations.KeyExpansionRecurrence := by
  refine ⟨fun _ => rfl, fun _ => rfl, fun key nk i hmem => ?_⟩
  obtain ⟨hpos, hnk⟩ : 0 < nk ∧ nk ≤ 8 := by revert nk; decide
  intro hlo hhi w prev temp
  calc w i = (w (i - nk)).xor (scheduleTemp nk i prev) := wordAt_keyExpansion_of_le key hpos hnk hlo hhi
    _ = (w (i - nk)).xor temp := by rw [scheduleTemp_eq]

end Sys2Proof.Machine
end

section
/-! PROOFS about 42_key_schedule.md R167: KEYEXPAND, its corner cases and its example. -/

namespace Sys2Proof.Machine

/-- Storing a schedule that the store already holds changes nothing. -/
theorem storeSchedule_eq_self {rk : Vector Block 15} {w : List Word} {nr : Nat}
    (h : ∀ j : Fin 60, j.val < 4 * (nr + 1) → storeWord rk j = wordAt w j.val) : storeSchedule rk w nr = rk := by
  refine Vector.ext fun n hn => ?_
  rw [getElem_storeSchedule]
  split
  · next hle =>
    refine Block.ext_col fun c => ?_
    have hdiv : (4 * n + c.val) / 4 = n := by omega
    have hmod : (4 * n + c.val) % 4 = c.val := by omega
    rw [col_roundKeyOf, ← h ⟨4 * n + c.val, by omega⟩ (by simp only; omega)]
    simp only [storeWord, hdiv, hmod]
  · rfl

/-- KEYEXPAND on a current schedule recomputes it. -/
theorem ScheduleCurrent.exec_keyexpand {s : State} (h : ScheduleCurrent s) (hv : s.RKV = true) :
    exec .keyexpand s = .next { s with ERR := 0x00#8 } := by
  obtain ⟨hlegal, hwords⟩ := h hv
  refine (execKeyexpand_legal hlegal).trans ?_
  rw [storeSchedule_eq_self hwords, ← hv]

/-- A key length that is not legal has no current schedule. -/
theorem ScheduleCurrent.RKV_eq_false {s : State} (h : ScheduleCurrent s) (hk : klenLegal s.KLEN = false) : s.RKV = false := by
  refine Bool.eq_false_of_not_eq_true fun hv => ?_
  obtain ⟨hlegal, -⟩ := h hv
  exact absurd hlegal (by simp [hk])

/-- KEYEXPAND of a key of 16 bytes: success, eleven round keys, and the first eleven entries of `RK` are those of the expansion. -/
theorem exec_keyexpand_of_KLEN_eq_16 {s : State} (hk : s.KLEN = 16#8) :
    ∃ t, exec .keyexpand s = .next t ∧ t.ERR = 0x00#8 ∧ hostRead t 0x065#9 = 0x0B#8 ∧
      ∀ (n : Nat) (hn : n ≤ 10), t.RK[n] = roundKeyOf (keyExpansion s.KEY 4) n := by
  have hlegal : klenLegal s.KLEN = true := by rw [hk]; rfl
  refine ⟨_, execKeyexpand_legal hlegal, rfl, ?_, fun n hn => ?_⟩
  · rw [hostRead_rkcnt, rkcntByte, if_pos rfl, hk]; rfl
  · have hnr : n ≤ nrOf s.KLEN := by rw [hk]; exact hn
    rw [getElem_storeSchedule, if_pos hnr, hk]; rfl

/-- Round key 1 of the all-zero key of 16 bytes. -/
theorem roundKeyOf_keyExpansion_allZero :
    roundKeyOf (keyExpansion (hexKey 0) 4) 1 = hexBlock 0x62636363626363636263636362636363 := by decide

/-- Round keys 1 and 10 of the example of R167. -/
theorem roundKeyOf_keyExpansion_example :
    let w := keyExpansion (hexKey 0x000102030405060708090a0b0c0d0e0f00000000000000000000000000000000) 4
    roundKeyOf w 1 = hexBlock 0xd6aa74fdd2af72fadaa678f1d6ab76fe ∧
      roundKeyOf w 10 = hexBlock 0x13111d7fe3944a17f307a78b4d2b30c5 := by decide

/-- Settles O29: the check and the result, the corner cases under the invariant R27 and after reset, and the two computed examples. -/
theorem keyexpandCommand : Obligations.KeyexpandCommand := by
  refine ⟨rfl, fun s hs => ⟨_, execKeyexpand_legal hs, fun n i hn => ?_, fun n hn => ?_⟩, fun s => execKeyexpand_illegal,
    fun s => ScheduleCurrent.RKV_eq_false, fun s => ScheduleCurrent.exec_keyexpand, fun s t hs ht => ?_, execKeyexpand_illegal rfl,
    fun s hk hkey => ?_, fun s hk hkey => ?_⟩
  · rw [Fin.getElem_fin, getElem_storeSchedule, if_pos hn, blockByte_roundKeyOf]; rfl
  · rw [Fin.getElem_fin, getElem_storeSchedule, if_neg hn.not_ge]; rfl
  · cases (execKeyexpand_legal hs).symm.trans ht
    rw [hostRead_rkcnt, toNat_rkcntByte, if_pos rfl]; rfl
  · obtain ⟨t, ht, -, -, hRK⟩ := exec_keyexpand_of_KLEN_eq_16 hk
    exact ⟨t, ht, by rw [hRK 1 (by decide), hkey, roundKeyOf_keyExpansion_allZero]⟩
  · obtain ⟨t, ht, herr, hcount, hRK⟩ := exec_keyexpand_of_KLEN_eq_16 hk
    obtain ⟨hfirst, hlast⟩ := roundKeyOf_keyExpansion_example
    exact ⟨t, ht, herr, hcount, by rw [hRK 1 (by decide), hkey, hfirst], by rw [hRK 10 (by decide), hkey, hlast]⟩

end Sys2Proof.Machine
end

section
/-! PROOFS about 42_key_schedule.md R170: the key bytes from `KLEN` on are never read. -/

namespace Sys2Proof.Machine

theorem initialWords_eq_map_take (key : Vector Byte 32) (nk : Nat) :
    initialWords key nk = ((List.finRange 8).take nk).map (keyColumn key) := List.map_take.symm

theorem val_lt_of_mem_take_finRange {n k : Nat} {c : Fin n} (h : c ∈ (List.finRange n).take k) : c.val < k := by
  obtain ⟨j, hj, rfl⟩ := List.mem_take_iff_getElem.1 h
  simp only [List.getElem_finRange, Fin.val_cast]
  omega

/-- Only the first `4 * Nk` bytes of the key enter the expansion. -/
theorem keyExpansion_congr {key key' : Vector Byte 32} {nk : Nat} (h : ∀ i : Fin 32, i.val < 4 * nk → key[i] = key'[i]) :
    keyExpansion key nk = keyExpansion key' nk := by
  have hinit : initialWords key nk = initialWords key' nk := by
    rw [initialWords_eq_map_take, initialWords_eq_map_take]
    refine List.map_congr_left fun c hc => Word.ext_get fun r => ?_
    have hlt : c.val < nk := val_lt_of_mem_take_finRange hc
    rw [get_keyColumn, get_keyColumn]
    exact h (keyIndex r c) (by simp only [keyIndex]; omega)
  rw [keyExpansion, hinit, keyExpansion]

/-- Two states that agree on the used key bytes are one state with two keys of one expansion. -/
theorem SameUsedKey.exists_withKEY {s t : State} (h : SameUsedKey s t) :
    ∃ key, t = s.withKEY key ∧ keyExpansion key (nkOf s.KLEN) = keyExpansion s.KEY (nkOf s.KLEN) := by
  obtain ⟨hrest, hkey⟩ := h
  refine ⟨t.KEY, hrest, keyExpansion_congr fun i hi => (hkey i ?_).symm⟩
  rw [nkOf] at hi; omega

section
variable {s : State} {key : Vector Byte 32} (h : keyExpansion key (nkOf s.KLEN) = keyExpansion s.KEY (nkOf s.KLEN))
include h

/-- KEYEXPAND reads the key through its expansion alone. -/
theorem exec_keyexpand_withKEY : ∃ t, exec .keyexpand s = .next t ∧ exec .keyexpand (s.withKEY key) = .next (t.withKEY key) := by
  cases hk : klenLegal s.KLEN with
  | false => exact ⟨_, execKeyexpand_illegal hk, execKeyexpand_illegal (s := s.withKEY key) hk⟩
  | true =>
    refine ⟨_, execKeyexpand_legal hk, (execKeyexpand_legal (s := s.withKEY key) hk).trans ?_⟩
    simp only [State.withKEY, h]

/-- A driver that reads the key through its expansion alone gives the same with either key. -/
theorem runDriver_withKEY {f : Block → Vector Byte 32 → Nat → Block} (hf : f s.S key (nkOf s.KLEN) = f s.S s.KEY (nkOf s.KLEN)) :
    runDriver f (s.withKEY key) = (runDriver f s).withKEY key := by
  cases hk : klenLegal s.KLEN with
  | false => rw [runDriver_illegal f hk, runDriver_illegal f (s := s.withKEY key) hk]; rfl
  | true =>
    rw [runDriver_legal f hk, runDriver_legal f (s := s.withKEY key) hk]
    simp only [State.withKEY, h, hf]

theorem exec_scheduleCommand_withKEY {i : Instr} (hi : i ∈ [Instr.keyexpand, .cipher, .decipher]) :
    ∃ t, exec i s = .next t ∧ exec i (s.withKEY key) = .next (t.withKEY key) := by
  simp only [List.mem_cons, List.not_mem_nil, or_false] at hi
  obtain rfl | rfl | rfl := hi
  · exact exec_keyexpand_withKEY h
  · exact ⟨_, rfl, congrArg _ (runDriver_withKEY h (by rw [cipher, cipher, h]))⟩
  · exact ⟨_, rfl, congrArg _ (runDriver_withKEY h (by rw [decipher, decipher, h]))⟩

end

/-- Settles O30: the two keys have one expansion, and the three commands read the key only through it; a write of a key byte clears
`RKV` by the address map. -/
theorem unusedKeyBytesIgnored : Obligations.UnusedKeyBytesIgnored := by
  refine ⟨fun s t i h hi => ?_, fun s i v => ?_⟩
  · obtain ⟨key, rfl, hexp⟩ := h.exists_withKEY
    obtain ⟨s', hs, ht⟩ := exec_scheduleCommand_withKEY hexp hi
    exact ⟨s', s'.withKEY key, hs, ht, rfl, rfl, rfl, rfl⟩
  · obtain ⟨-, hw⟩ := addressMap_key s v i
    exact ⟨_, hw, rfl⟩

end Sys2Proof.Machine
end

section
/-! PROOFS about 43_cipher_decipher.md R180 and R183: the two algorithms and their rounds as equations, and the rounds as sequences of
blocks. -/

namespace Sys2Proof.Machine

theorem cipherRound_eq (w : List Word) (m : Block) (r : Nat) :
    cipherRound w m r = addRoundKey (mixColumns (shiftRows (subBytes m))) (roundKeyOf w r) := rfl

theorem decipherRound_eq (w : List Word) (m : Block) (r : Nat) :
    decipherRound w m r = invSubBytes (invShiftRows (invMixColumns (addRoundKey m (roundKeyOf w r)))) := rfl

theorem cipherWith_eq (w : List Word) (nr : Nat) (p : Block) :
    cipherWith w nr p = addRoundKey
      (shiftRows (subBytes ((middleRounds nr).foldl (cipherRound w) (addRoundKey p (roundKeyOf w 0))))) (roundKeyOf w nr) := rfl

theorem decipherWith_eq (w : List Word) (nr : Nat) (q : Block) :
    decipherWith w nr q = addRoundKey
      ((middleRounds nr).reverse.foldl (decipherRound w) (invSubBytes (invShiftRows (addRoundKey q (roundKeyOf w nr)))))
      (roundKeyOf w 0) := rfl

theorem cipher_eq (p : Block) (key : Vector Byte 32) (nk : Nat) :
    cipher p key nk = cipherWith (keyExpansion key nk) (nk + 6) p := rfl

theorem decipher_eq (q : Block) (key : Vector Byte 32) (nk : Nat) :
    decipher q key nk = decipherWith (keyExpansion key nk) (nk + 6) q := rfl

section
variable {α : Type} {f : α → Nat → α} {st : Nat → α} {n : Nat}

/-- A sequence that goes through the rounds in increasing order ends where the loop over them ends. -/
theorem foldl_range'_of_forall_eq (h : ∀ r, 1 ≤ r → r ≤ n → st r = f (st (r - 1)) r) :
    (List.range' 1 n).foldl f (st 0) = st n := by
  induction n with
  | zero => rfl
  | succ n ih =>
    rw [List.range'_1_concat, List.foldl_concat, ih fun r h1 hr => h r h1 (by omega), Nat.add_comm 1 n]
    exact (h (n + 1) (by omega) le_rfl).symm

/-- A sequence that goes through the rounds in decreasing order ends where the loop over them reversed ends. -/
theorem foldl_reverse_range'_of_forall_eq (h : ∀ r, 1 ≤ r → r ≤ n → st r = f (st (r + 1)) r) :
    (List.range' 1 n).reverse.foldl f (st (n + 1)) = st 1 := by
  induction n with
  | zero => rfl
  | succ n ih =>
    rw [List.range'_1_concat, List.reverse_concat, List.foldl_cons, Nat.add_comm 1 n, ← h (n + 1) (by omega) le_rfl]
    exact ih fun r h1 hr => h r h1 (by omega)

end

/-- Settles O31: the sequence goes through the loop of `cipherWith`, so its last block is the one the final round takes. -/
theorem cipherRounds : Obligations.CipherRounds := by
  intro p key nk st _ hstart hround
  have hloop : (middleRounds (nk + 6)).foldl (cipherRound (keyExpansion key nk)) (st 0) = st (nk + 6 - 1) :=
    foldl_range'_of_forall_eq hround
  rw [cipher_eq, cipherWith_eq, ← hstart, hloop]

/-- Settles O32: the sequence goes through the loop of `decipherWith` downwards, and ends at round 1. -/
theorem decipherRounds : Obligations.DecipherRounds := by
  intro q key nk st _ hstart hround
  have hloop : (middleRounds (nk + 6)).reverse.foldl (decipherRound (keyExpansion key nk)) (st (nk + 6)) = st 1 :=
    foldl_reverse_range'_of_forall_eq hround
  rw [decipher_eq, decipherWith_eq, ← hstart, hloop]

end Sys2Proof.Machine
end

section
/-! PROOFS about 43_cipher_decipher.md R186: decryption undoes encryption round by round, and encryption undoes decryption. -/

namespace Sys2Proof.Machine

/-- The middle round of decryption has the transforms of the middle round of encryption undone in the opposite order. -/
theorem decipherRound_cipherRound (w : List Word) (m : Block) (r : Nat) : decipherRound w (cipherRound w m r) r = m := by
  rw [decipherRound_eq, cipherRound_eq, addRoundKey_addRoundKey, invMixColumns_mixColumns, invShiftRows_shiftRows, invSubBytes_subBytes]

theorem cipherRound_decipherRound (w : List Word) (m : Block) (r : Nat) : cipherRound w (decipherRound w m r) r = m := by
  rw [cipherRound_eq, decipherRound_eq, subBytes_invSubBytes, shiftRows_invShiftRows, mixColumns_invMixColumns, addRoundKey_addRoundKey]

/-- A loop is undone by the loop that undoes its steps, the last first. -/
theorem foldl_reverse_foldl {α β : Type} {f g : α → β → α} (h : ∀ a b, g (f a b) b = a) (l : List β) (a : α) :
    l.reverse.foldl g (l.foldl f a) = a := by
  induction l generalizing a with
  | nil => rfl
  | cons b l ih => rw [List.foldl_cons, List.reverse_cons, List.foldl_concat, ih, h]

theorem decipherWith_cipherWith (w : List Word) (nr : Nat) (p : Block) : decipherWith w nr (cipherWith w nr p) = p := by
  rw [decipherWith_eq, cipherWith_eq, addRoundKey_addRoundKey, invShiftRows_shiftRows, invSubBytes_subBytes,
    foldl_reverse_foldl (decipherRound_cipherRound w), addRoundKey_addRoundKey]

theorem cipherWith_decipherWith (w : List Word) (nr : Nat) (q : Block) : cipherWith w nr (decipherWith w nr q) = q := by
  have hloop (m : Block) : (middleRounds nr).foldl (cipherRound w) ((middleRounds nr).reverse.foldl (decipherRound w) m) = m := by
    simpa using foldl_reverse_foldl (cipherRound_decipherRound w) (middleRounds nr).reverse m
  rw [cipherWith_eq, decipherWith_eq, addRoundKey_addRoundKey, hloop, subBytes_invSubBytes, shiftRows_invShiftRows, addRoundKey_addRoundKey]

theorem decipher_cipher (p : Block) (key : Vector Byte 32) (nk : Nat) : decipher (cipher p key nk) key nk = p :=
  decipherWith_cipherWith _ _ p

theorem cipher_decipher (q : Block) (key : Vector Byte 32) (nk : Nat) : cipher (decipher q key nk) key nk = q :=
  cipherWith_decipherWith _ _ q

/-- A driver leaves the key and its length in place, so that the next one works with the same. -/
theorem runDriver_runDriver_S (f g : Block → Vector Byte 32 → Nat → Block) {s : State} (hs : klenLegal s.KLEN = true) :
    (runDriver g (runDriver f s)).S = g (f s.S s.KEY (nkOf s.KLEN)) s.KEY (nkOf s.KLEN) := by
  rw [runDriver_legal f hs, runDriver_legal g]
  exact hs

/-- Settles O35: the functions by their rounds, the commands by the functions. -/
theorem cipherRoundTrip : Obligations.CipherRoundTrip := by
  refine ⟨fun p key nk _ => ⟨decipher_cipher p key nk, cipher_decipher p key nk⟩, fun s hs => ⟨⟨_, rfl, ?_⟩, _, rfl, ?_⟩⟩
  · exact (runDriver_runDriver_S cipher decipher hs).trans (decipher_cipher s.S s.KEY (nkOf s.KLEN))
  · exact (runDriver_runDriver_S decipher cipher hs).trans (cipher_decipher s.S s.KEY (nkOf s.KLEN))

end Sys2Proof.Machine
end

section
/-! PROOFS about 43_cipher_decipher.md R189: the step commands on an expanded key do what the drivers do. -/

namespace Sys2Proof.Machine

/-- The state `s` with the schedule of its key in `RK` and the block `m` in `S`: where the step sequences of R189 stand after
KEYEXPAND and after each later command. -/
def expandedWith (s : State) (m : Block) : State :=
  { s with
    S := m
    RK := storeSchedule s.RK (keyExpansion s.KEY (nkOf s.KLEN)) (nrOf s.KLEN)
    RKV := true
    ERR := 0x00#8 }

section
variable (s : State) (m : Block)
@[simp] theorem expandedWith_KLEN : (expandedWith s m).KLEN = s.KLEN := rfl
@[simp] theorem expandedWith_RK :
    (expandedWith s m).RK = storeSchedule s.RK (keyExpansion s.KEY (nkOf s.KLEN)) (nrOf s.KLEN) := rfl
@[simp] theorem expandedWith_RKV : (expandedWith s m).RKV = true := rfl
end

/-- A driver that computes the block `m` ends in the same state, but for `RKV`. -/
theorem expandedWith_eq_runDriver (f : Block → Vector Byte 32 → Nat → Block) {s : State} (hs : klenLegal s.KLEN = true) :
    expandedWith s (f s.S s.KEY (nkOf s.KLEN)) = { runDriver f s with RKV := true } := by
  rw [runDriver_legal f hs]; rfl

/-- On the expanded key of `s` the commands `l` apply `f` to `S`, report success and change nothing else. -/
def ActsOn (s : State) (l : List Instr) (f : Block → Block) : Prop :=
  ∀ m, execList l (expandedWith s m) = .next (expandedWith s (f m))

section
variable {s : State} {l l' : List Instr} {i : Instr} {f g : Block → Block}

theorem ActsOn.nil : ActsOn s [] id := fun _ => rfl

theorem ActsOn.append (h : ActsOn s l f) (h' : ActsOn s l' g) : ActsOn s (l ++ l') (g ∘ f) := fun m =>
  (execList_append l' (h m)).trans (h' (f m))

theorem ActsOn.transform (hi : AppliesToS i f) (h : ActsOn s l g) : ActsOn s (i :: l) (g ∘ f) := fun m =>
  (execList_cons l (hi _)).trans (h (f m))

/-- ADDROUNDKEY finds the round key of the expansion in `RK`. -/
theorem exec_addroundkey_expandedWith {n : Nat} (hn : n ≤ nrOf s.KLEN) (h15 : n < 15) (m : Block) :
    exec (.addroundkey n) (expandedWith s m) =
      .next (expandedWith s (addRoundKey m (roundKeyOf (keyExpansion s.KEY (nkOf s.KLEN)) n))) := by
  have hsel : selectRoundKey (expandedWith s m) n = some (roundKeyOf (keyExpansion s.KEY (nkOf s.KLEN)) n) := by
    rw [selectRoundKey_eq_some (by simpa using hn) h15]
    simp [hn]
  exact execAddroundkey_ok (expandedWith_RKV s m) hsel

/-- The commands of a loop of rounds, one round after another. -/
theorem ActsOn.rounds {body : Nat → List Instr} {round : Block → Nat → Block} {rs : List Nat}
    (h : ∀ r ∈ rs, ActsOn s (body r) (round · r)) : ActsOn s (rs.map body).flatten (rs.foldl round ·) := by
  induction rs with
  | nil => exact .nil
  | cons r rs ih => exact (h r List.mem_cons_self).append (ih fun r' hr' => h r' (List.mem_cons_of_mem r hr'))

end

theorem nrOf_lt_of_klenLegal {k : Byte} (h : klenLegal k = true) : nrOf k < 15 := by
  obtain ⟨-, -, h⟩ | ⟨-, -, h⟩ | ⟨-, -, h⟩ := klenLegal_cases h <;> omega

theorem le_of_mem_middleRounds {r nr : Nat} (h : r ∈ middleRounds nr) : r ≤ nr := by
  have hbounds := List.mem_range'_1.1 h
  omega

/-- KEYEXPAND takes the step sequence to the expanded key. -/
theorem execList_keyexpand_cons {s : State} {l : List Instr} {f : Block → Block} (hs : klenLegal s.KLEN = true)
    (h : ActsOn s l f) : execList (.keyexpand :: l) s = .next (expandedWith s (f s.S)) := by
  have hexpand : exec .keyexpand s = .next (expandedWith s s.S) :=
    (exec_keyexpand s).trans (execKeyexpand_legal hs)
  exact (execList_cons l hexpand).trans (h s.S)

/-- On the expanded key of `s`, ADDROUNDKEY adds the round keys of `w` up to round `nr`. The two sequences need no more of the
schedule than this. -/
def AddsRoundKeys (s : State) (w : List Word) (nr : Nat) : Prop :=
  ∀ n ≤ nr, ActsOn s [.addroundkey n] (addRoundKey · (roundKeyOf w n))

theorem addsRoundKeys_keyExpansion {s : State} (hs : klenLegal s.KLEN = true) :
    AddsRoundKeys s (keyExpansion s.KEY (nkOf s.KLEN)) (nrOf s.KLEN) := fun _ hn m =>
  execList_cons [] (exec_addroundkey_expandedWith hn (hn.trans_lt (nrOf_lt_of_klenLegal hs)) m)

section
variable {s : State} {w : List Word} {nr : Nat} (h : AddsRoundKeys s w nr)
include h

theorem AddsRoundKeys.actsOn_cipherRound {r : Nat} (hr : r ∈ middleRounds nr) :
    ActsOn s [.subbytes, .shiftrows, .mixcolumns, .addroundkey r] (cipherRound w · r) :=
  .transform appliesToS_subbytes <| .transform appliesToS_shiftrows <| .transform appliesToS_mixcolumns <|
    h r (le_of_mem_middleRounds hr)

theorem AddsRoundKeys.actsOn_decipherRound {r : Nat} (hr : r ∈ middleRounds nr) :
    ActsOn s [.addroundkey r, .invmixcolumns, .invshiftrows, .invsubbytes] (decipherRound w · r) :=
  (h r (le_of_mem_middleRounds hr)).append <|
    .transform appliesToS_invmixcolumns <| .transform appliesToS_invshiftrows <| .transform appliesToS_invsubbytes .nil

theorem AddsRoundKeys.execList_encryptCommands (hs : klenLegal s.KLEN = true) :
    execList (encryptCommands nr) s = .next (expandedWith s (cipherWith w nr s.S)) := by
  have hfirst := h 0 (Nat.zero_le nr)
  have hloop := ActsOn.rounds fun r hr => h.actsOn_cipherRound hr
  have hfinal := ActsOn.transform appliesToS_subbytes (.transform appliesToS_shiftrows (h nr le_rfl))
  exact execList_keyexpand_cons hs ((hfirst.append hloop).append hfinal)

theorem AddsRoundKeys.execList_decryptCommands (hs : klenLegal s.KLEN = true) :
    execList (decryptCommands nr) s = .next (expandedWith s (decipherWith w nr s.S)) := by
  have hfirst := (h nr le_rfl).append (.transform appliesToS_invshiftrows (.transform appliesToS_invsubbytes .nil))
  have hloop := ActsOn.rounds fun r hr => h.actsOn_decipherRound (List.mem_reverse.1 hr)
  have hfinal := h 0 (Nat.zero_le nr)
  exact execList_keyexpand_cons hs ((hfirst.append hloop).append hfinal)

end

theorem runDriver_RKV (f : Block → Vector Byte 32 → Nat → Block) {s : State} (hs : klenLegal s.KLEN = true) :
    (runDriver f s).RKV = false := by
  rw [runDriver_legal f hs]

theorem runDriver_KLEN (f : Block → Vector Byte 32 → Nat → Block) {s : State} (hs : klenLegal s.KLEN = true) :
    (runDriver f s).KLEN = s.KLEN := by
  rw [runDriver_legal f hs]

/-- Settles O36: both sequences apply the driver's function to the block, on the expanded key. -/
theorem cipherEqualsStepCommands : Obligations.CipherEqualsStepCommands := by
  intro s hs
  have hkeys := addsRoundKeys_keyExpansion hs
  refine ⟨⟨_, rfl, runDriver_RKV cipher hs, ?_⟩, ⟨_, rfl, runDriver_RKV decipher hs, ?_⟩⟩
  · rw [hkeys.execList_encryptCommands hs, ← expandedWith_eq_runDriver cipher hs]; rfl
  · rw [hkeys.execList_decryptCommands hs, ← expandedWith_eq_runDriver decipher hs]; rfl

end Sys2Proof.Machine
end

section
/-! PROOFS about 43_cipher_decipher.md R188: the drivers compute their own schedule and give it up. -/

namespace Sys2Proof.Machine

theorem rkcntByte_of_RKV_false {s : State} (h : s.RKV = false) : rkcntByte s = 0x00#8 :=
  if_neg (by simp [h])

theorem readRoundKeyByte_of_RKV_false {s : State} (h : s.RKV = false) (n : Fin 15) (j : Fin 16) :
    readRoundKeyByte s n j = 0x00#8 :=
  if_neg (by simp [h])

/-- The two commands are drivers. -/
theorem exists_runDriver : ∀ i ∈ [Instr.cipher, .decipher], ∃ f, ∀ s, exec i s = .next (runDriver f s) := by
  simp only [List.forall_mem_cons]
  exact ⟨⟨cipher, fun _ => rfl⟩, ⟨decipher, fun _ => rfl⟩, nofun⟩

/-- What a driver leaves in `RK` depends on the old `RK`; nothing else it leaves depends on `RK` or `RKV`. -/
theorem exists_runDriver_eq_withRK (f : Block → Vector Byte 32 → Nat → Block) {s : State} (hs : klenLegal s.KLEN = true)
    (rk : Vector Block 15) (v : Bool) : ∃ rk', runDriver f { s with RK := rk, RKV := v } = (runDriver f s).withRK rk' := by
  refine ⟨storeSchedule rk (keyExpansion s.KEY (nkOf s.KLEN)) (nrOf s.KLEN), ?_⟩
  rw [runDriver_legal f hs, runDriver_legal f]
  · rfl
  · exact hs

/-- Settles O37: a driver reads neither `RK` nor `RKV`, and everything that shows the schedule shows `RKV = 0` after it. -/
theorem scheduleGivenUp : Obligations.ScheduleGivenUp := by
  intro s i hs hi
  obtain ⟨f, hf⟩ := exists_runDriver i hi
  have hv : (runDriver f s).RKV = false := runDriver_RKV f hs
  have hlegal : klenLegal (runDriver f s).KLEN = true := by rwa [runDriver_KLEN f hs]
  refine ⟨fun rk v => ⟨_, _, hf s, hf _, ?_⟩, _, hf s, hv, ?_, fun n j => ?_, fun n => execAddroundkey_noKey n hv,
    ⟨_, execKeyexpand_legal hlegal, rfl⟩⟩
  · obtain ⟨rk', hother⟩ := exists_runDriver_eq_withRK f hs rk v
    rw [hother]
    exact ⟨rfl, rfl, rfl⟩
  · rw [hostRead_rkcnt, rkcntByte_of_RKV_false hv]
  · obtain ⟨hread, -⟩ := addressMap_rkb (runDriver f s) 0x00#8 n j
    exact hread.trans (readRoundKeyByte_of_RKV_false hv n j)

end Sys2Proof.Machine
end

section
/-! PROOFS about 60_exceptions.md sections 1 and 2: a command completes or is rejected by one of its checks, in the order of R204. -/

namespace Sys2Proof.Machine

section
variable {s t : State} {i : Instr} {v : Byte}

theorem CommandEffect.rejected_or_ok (he : CommandEffect s i t) : (∃ e, t = raiseErr e s) ∨ t.ERR = 0x00#8 := by
  obtain h | ⟨-, f, rfl⟩ | ⟨-, -, rfl⟩ | ⟨-, -, m, rfl⟩ | ⟨-, g, rfl⟩ := he
  · exact .inl h
  · exact .inr rfl
  · exact .inr rfl
  · exact .inr rfl
  · exact .inr rfl

/-- The two ways a write to `CMD` ends (60_exceptions.md R201, R202). -/
theorem runCommand_rejected_or_ok (h : runCommand v s = .next t) : (∃ e, t = raiseErr e s) ∨ t.ERR = 0x00#8 := by
  obtain he | ⟨i, -, he⟩ := runCommand_cases h
  · exact .inl ⟨.eIllcmd, he⟩
  · exact he.rejected_or_ok

end

/-- Settles O41: a write to `CMD` is rejected or succeeds; a data write and a read do not reach `ERR`. -/
theorem errorsArePrecise : Obligations.ErrorsArePrecise := by
  refine ⟨fun v s => ?_, fun a v s t ha h => ?_, fun s t a rest hh h => ?_⟩
  · obtain ⟨t, ht⟩ := exists_hostWrite_eq_next 0x061#9 v s
    refine ⟨t, ht, ?_⟩
    obtain ⟨e, rfl⟩ | hok := runCommand_rejected_or_ok ht
    · exact ⟨errCode_mem e, fun _ => rfl⟩
    · exact ⟨hok ▸ List.mem_cons_self, fun hne => absurd hok hne⟩
  · obtain ⟨-, -, hERR, -⟩ := (writeLocation_effect (mt eq_of_locate_eq_cmd ha) h).writes
    exact hERR
  · rw [eq_of_step_read hh h]
    rfl

section
variable {s : State} {i : Instr}

/-- The check of the key length, the one check of these three commands (60_exceptions.md R205). -/
theorem exec_scheduleCommand_illegal (hi : i ∈ [Instr.cipher, .decipher, .keyexpand]) (hk : klenLegal s.KLEN = false) :
    exec i s = .next { s with ERR := 0x01#8 } := by
  fin_cases hi
  · exact congrArg Host.Outcome.next (runDriver_illegal cipher hk)
  · exact congrArg Host.Outcome.next (runDriver_illegal decipher hk)
  · exact execKeyexpand_illegal hk

theorem exec_scheduleCommand_legal (hi : i ∈ [Instr.cipher, .decipher, .keyexpand]) (hk : klenLegal s.KLEN = true) :
    ∃ t, exec i s = .next t ∧ t.ERR = 0x00#8 := by
  fin_cases hi
  · exact ⟨_, congrArg Host.Outcome.next (runDriver_legal cipher hk), rfl⟩
  · exact ⟨_, congrArg Host.Outcome.next (runDriver_legal decipher hk), rfl⟩
  · exact ⟨_, execKeyexpand_legal hk, rfl⟩

end

/-- The commands that "pass straight from step 1 to step 6 and cannot fail" (60_exceptions.md R204). -/
theorem exec_uncheckedCommand_ok :
    ∀ i ∈ [Instr.subbytes, .invsubbytes, .shiftrows, .invshiftrows, .mixcolumns, .invmixcolumns, .xtime],
      ∀ s : State, ∃ t, exec i s = .next t ∧ t.ERR = 0x00#8 := by
  intro i hi s
  fin_cases hi <;> exact ⟨_, rfl, rfl⟩

/-- ADDROUNDKEY on a current schedule: its length is legal, so a number up to `Nr` is one of the store. -/
theorem ScheduleCurrent.exec_addroundkey_ok {s : State} {n : Nat} (h : ScheduleCurrent s) (hv : s.RKV = true)
    (hn : n ≤ nrOf s.KLEN) : ∃ t, exec (.addroundkey n) s = .next t ∧ t.ERR = 0x00#8 := by
  obtain ⟨hlegal, -⟩ := h hv
  have h15 : n < 15 := hn.trans_lt (nrOf_lt_of_klenLegal hlegal)
  exact ⟨_, exec_addroundkey_of_le (n := ⟨n, h15⟩) hv hn, rfl⟩

theorem exec_gmul_toNat_ok (k : GConst) (s : State) : ∃ t, exec (.gmul k.toNat) s = .next t ∧ t.ERR = 0x00#8 :=
  ⟨_, exec_gmul_of_GFA rfl rfl, rfl⟩

/-- Step 6 of 60_exceptions.md R204: a command that passes its checks completes. -/
theorem ScheduleCurrent.exec_ok {s : State} {i : Instr} (h : ScheduleCurrent s)
    (hklen : i ∈ [Instr.cipher, .decipher, .keyexpand] → klenLegal s.KLEN = true)
    (hkey : ∀ n, i = .addroundkey n → s.RKV = true ∧ n ≤ nrOf s.KLEN)
    (hconst : ∀ c, i = .gmul c → ∃ k : GConst, k.toNat = c) : ∃ t, exec i s = .next t ∧ t.ERR = 0x00#8 := by
  cases i with
  | cipher | decipher | keyexpand =>
    exact exec_scheduleCommand_legal (by simp) (hklen (by simp))
  | subbytes | invsubbytes | shiftrows | invshiftrows | mixcolumns | invmixcolumns | xtime =>
    exact exec_uncheckedCommand_ok _ (by simp) s
  | addroundkey n =>
    obtain ⟨hv, hn⟩ := hkey n rfl
    exact h.exec_addroundkey_ok hv hn
  | gmul c =>
    obtain ⟨k, rfl⟩ := hconst c rfl
    exact exec_gmul_toNat_ok k s

/-- Settles O42: the decoder's check, then one check or two for each command that has any, then the execution. -/
theorem orderOfChecks : Obligations.OrderOfChecks := by
  refine fun v s hs => ⟨fun hv => runCommand_illegal hv s, fun i hv => ?_⟩
  rw [hostWrite_cmd_of_decode hv]
  refine ⟨fun hi hk => ?_, ?_, ?_, ?_, fun hklen hkey hconst => ⟨rfl, ?_⟩⟩
  · exact exec_scheduleCommand_illegal hi (by rwa [klenLegal_eq_decide, decide_eq_false_iff_not])
  · rintro n rfl hv
    exact execAddroundkey_noKey n hv
  · rintro n rfl hv hn
    exact execAddroundkey_badIndex hv (selectRoundKey_eq_none (.inl hn))
  · rintro c rfl hc
    exact execGmul_bad (selectConst_eq_none hc) s
  · exact hs.exec_ok (fun hi => (klenLegal_iff_toNat_mem _).2 (hklen hi)) hkey
      fun c hc => (exists_toNat_eq_iff c).2 (hconst c hc)

end Sys2Proof.Machine
end

section
/-! PROOFS about 60_exceptions.md section 3, R211 and R212: no command reads `ERR`, and what works right after reset. -/

namespace Sys2Proof.Machine

theorem exec_withERR (i : Instr) (s : State) (e : Byte) : exec i (s.withERR e) = exec i s := by
  cases i <;> rfl

/-- Settles O43: no check reads `ERR`, and every end of a command overwrites it. -/
theorem errNotSticky : Obligations.ErrNotSticky := by
  intro v e s
  cases hv : decode v with
  | illegal => exact (runCommand_illegal hv (s.withERR e)).trans (runCommand_illegal hv s).symm
  | command i => rw [hostWrite_cmd_of_decode hv, hostWrite_cmd_of_decode hv]; exact exec_withERR i s e

theorem State.reset_KEY : State.reset.KEY = hexKey 0 := by decide

/-- A driver after reset, with only `KLEN` written: it runs on the zero block under the zero key. -/
theorem runDriver_reset_withKLEN (f : Block → Vector Byte 32 → Nat → Block) {k : Byte} (hk : k.toNat ∈ [16, 24, 32]) :
    (runDriver f (State.reset.withKLEN k)).ERR = 0x00#8 ∧
      (runDriver f (State.reset.withKLEN k)).S = f (constBlock 0x00#8) (hexKey 0) (k.toNat / 4) := by
  rw [runDriver_legal f (s := State.reset.withKLEN k) ((klenLegal_iff_toNat_mem k).2 hk), ← State.reset_KEY]
  exact ⟨rfl, rfl⟩

/-- Settles O54: the checks that fail on `KLEN = 0` and `RKV = 0`, the commands that cannot fail, GMUL, and the two drivers. -/
theorem afterReset : Obligations.AfterReset :=
  ⟨fun _ hi => exec_scheduleCommand_illegal hi rfl, fun n => execAddroundkey_noKey n rfl,
    fun i hi => exec_uncheckedCommand_ok i hi State.reset, fun k => exec_gmul_toNat_ok k State.reset,
    fun _ hk => ⟨⟨_, rfl, runDriver_reset_withKLEN cipher hk⟩, _, rfl, runDriver_reset_withKLEN decipher hk⟩⟩

end Sys2Proof.Machine
end

section
/-! PROOFS about 70_reset_and_hazards.md section 1, R230 and R231: the reset state and the event that takes the core to it. -/

namespace Sys2Proof.Machine

@[simp] theorem blockByte_zero (i : Fin 16) : blockByte Block.zero i = 0x00#8 := blockAt_zero _ _

theorem State.getElem_reset_KEY (i : Fin 32) : State.reset.KEY[i] = 0x00#8 := Vector.getElem_replicate i.isLt

theorem State.getElem_reset_RK (n : Fin 15) : State.reset.RK[n] = Block.zero := Vector.getElem_replicate n.isLt

/-- After reset no bit of `STATUS` is set: no schedule, no legal key length, no error. -/
theorem statusByte_reset : statusByte State.reset = 0x00#8 :=
  BitVec.eq_of_getLsbD_eq fun i _ => by
    have hRKV : State.reset.RKV = false := rfl
    have hKLEN : klenLegal State.reset.KLEN = false := rfl
    have hERR : State.reset.ERR = 0x00#8 := rfl
    simp [getLsbD_statusByte, hRKV, hKLEN, hERR]

theorem rkcntByte_of_RKV_eq_false {s : State} (h : s.RKV = false) : rkcntByte s = 0x00#8 := by simp [rkcntByte, h]

/-- Settles O52: the arrays byte by byte, and the derived registers from `RKV = 0`, `ERR = 0` and a key length that is not legal. -/
theorem resetState : Obligations.ResetState := by
  refine ⟨blockAt_zero, State.getElem_reset_KEY, rfl, fun n i => ?_, rfl, rfl, rfl, rfl, ?_, ?_, ?_⟩
  · rw [State.getElem_reset_RK, blockByte_zero]
  · rw [hostRead_status, statusByte_reset]
  · rw [hostRead_param, paramByte_illegal (by decide)]
  · rw [hostRead_rkcnt, rkcntByte_of_RKV_eq_false rfl]

/-- Settles O53: a reset is served whether or not one was taken before, and it keeps only the host's own lists. -/
theorem resetEvent : Obligations.ResetEvent := fun s rest h =>
  calc step s = serve .reset (s.withHost rest) := step_cons h
    _ = .next (takeReset (s.withHost rest)) := serve_reset _
    _ = .next { State.reset with host := rest, reads := s.reads } := by
      rw [takeReset_eq, State.withHost_host, State.withHost_reads]

end Sys2Proof.Machine
end

section
/-! PROOFS about 43_cipher_decipher.md R182 and R184: the commands CIPHER and DECIPHER, as the two uses of one driver. -/

namespace Sys2Proof.Machine

/-- A schedule of `Nr` rounds is stored in the entries up to `Nr` only. -/
theorem storeSchedule_beyond (rk : Vector Block 15) (w : List Word) {nr : Nat} {n : Fin 15} (hn : nr < n.val) :
    (storeSchedule rk w nr)[n] = rk[n] := by
  rw [Fin.getElem_fin, getElem_storeSchedule, if_neg hn.not_ge, Fin.getElem_fin]

/-- The command `i` runs the driver of the block function `f`. -/
def Drives (i : Instr) (f : Block → Vector Byte 32 → Nat → Block) : Prop := ∀ s, exec i s = .next (runDriver f s)

theorem drives_cipher : Drives .cipher cipher := fun _ => rfl
theorem drives_decipher : Drives .decipher decipher := fun _ => rfl

section
variable {i : Instr} {f : Block → Vector Byte 32 → Nat → Block} {s t : State} (hi : Drives i f)
include hi

theorem Drives.exec_legal (hs : klenLegal s.KLEN = true) :
    ∃ rk, exec i s = .next { s with S := f s.S s.KEY (nkOf s.KLEN), RK := rk, RKV := false, ERR := 0x00#8 } ∧
      (∀ n : Fin 15, n.val ≤ nrOf s.KLEN → rk[n] = roundKeyOf (keyExpansion s.KEY (nkOf s.KLEN)) n.val) ∧
      (∀ n : Fin 15, nrOf s.KLEN < n.val → rk[n] = s.RK[n]) := by
  refine ⟨_, (hi s).trans (congrArg _ (runDriver_legal f hs)), fun n hn => ?_, fun n => storeSchedule_beyond s.RK _⟩
  rw [Fin.getElem_fin, getElem_storeSchedule, if_pos hn]

theorem Drives.exec_illegal (hs : klenLegal s.KLEN = false) : exec i s = .next { s with ERR := 0x01#8 } :=
  (hi s).trans (congrArg _ (runDriver_illegal f hs))

/-- Whether the driver runs or fails, what it leaves in `S` and `ERR` depends on neither `RK` nor `RKV`. -/
theorem Drives.exec_with_RK_RKV (s : State) (rk : Vector Block 15) (v : Bool) :
    ∃ t u, exec i s = .next t ∧ exec i { s with RK := rk, RKV := v } = .next u ∧ t.S = u.S ∧ t.ERR = u.ERR := by
  refine ⟨_, _, hi s, hi _, ?_⟩
  cases hs : klenLegal s.KLEN with
  | true =>
    obtain ⟨rk', hother⟩ := exists_runDriver_eq_withRK f hs rk v
    rw [hother]
    exact ⟨rfl, rfl⟩
  | false =>
    rw [runDriver_illegal f hs, runDriver_illegal f (s := { s with RK := rk, RKV := v }) hs]
    exact ⟨rfl, rfl⟩

theorem Drives.execList_twice (hs : klenLegal s.KLEN = true) :
    ∃ t, execList [i, i] s = .next t ∧ t.S = f (f s.S s.KEY (nkOf s.KLEN)) s.KEY (nkOf s.KLEN) :=
  ⟨_, (execList_cons [i] (hi s)).trans (execList_cons [] (hi _)), runDriver_runDriver_S f f hs⟩

/-- A driver with a key of 16 bytes, on given contents of `KEY` and `S`. -/
theorem Drives.exec_of_KLEN_eq_16 {key : Vector Byte 32} {m m' : Block} (hf : f m key 4 = m') (hklen : s.KLEN = 16#8)
    (hkey : s.KEY = key) (hS : s.S = m) : ∃ t, exec i s = .next t ∧ t.ERR = 0x00#8 ∧ t.S = m' := by
  obtain ⟨rk, ht, -, -⟩ := hi.exec_legal (s := s) (by rw [hklen]; rfl)
  refine ⟨_, ht, rfl, ?_⟩
  rw [hS, hkey, hklen]
  exact hf

end

/-- Two states that agree on the used key bytes get the same block from either command (42_key_schedule.md R170). -/
theorem SameUsedKey.exec_driver_S {s t : State} (h : SameUsedKey s t) {i : Instr} (hi : i ∈ [Instr.cipher, .decipher]) :
    ∃ s' t', exec i s = .next s' ∧ exec i t = .next t' ∧ s'.S = t'.S := by
  obtain ⟨hexec, -⟩ := unusedKeyBytesIgnored
  obtain ⟨s', t', hs, ht, hS, -⟩ := hexec s t i h (List.mem_cons_of_mem _ hi)
  exact ⟨s', t', hs, ht, hS⟩

set_option maxRecDepth 1000 in
/-- The known-answer vector of R182. -/
theorem cipher_example :
    cipher (hexBlock 0x00112233445566778899aabbccddeeff)
      (hexKey 0x000102030405060708090a0b0c0d0e0f00000000000000000000000000000000) 4 =
        hexBlock 0x69c4e0d86a7b0430d8cdb78070b4c55a := by decide

/-- The example of R184 is that of R182 undone. -/
theorem decipher_example :
    decipher (hexBlock 0x69c4e0d86a7b0430d8cdb78070b4c55a)
      (hexKey 0x000102030405060708090a0b0c0d0e0f00000000000000000000000000000000) 4 =
        hexBlock 0x00112233445566778899aabbccddeeff := by
  rw [← cipher_example, decipher_cipher]

/-- Settles O33: the clauses hold of every driver; the example is that of the function. -/
theorem cipherCommand : Obligations.CipherCommand :=
  ⟨rfl, fun _ => drives_cipher.exec_legal, fun _ => drives_cipher.exec_illegal, drives_cipher.exec_with_RK_RKV,
    fun _ _ h => h.exec_driver_S (by simp), fun _ => drives_cipher.execList_twice,
    fun _ => drives_cipher.exec_of_KLEN_eq_16 cipher_example⟩

/-- Settles O34: the same clauses of the other driver, whose example is that of CIPHER undone. -/
theorem decipherCommand : Obligations.DecipherCommand :=
  ⟨rfl, fun _ => drives_decipher.exec_legal, fun _ => drives_decipher.exec_illegal, drives_decipher.exec_with_RK_RKV,
    fun _ _ h => h.exec_driver_S (by simp), fun _ => drives_decipher.execList_twice,
    fun _ => drives_decipher.exec_of_KLEN_eq_16 decipher_example⟩

end Sys2Proof.Machine
end

section
/-! PROOFS about 42_key_schedule.md R167 and 43_cipher_decipher.md R182, R184: the frame of KEYEXPAND, CIPHER and DECIPHER. -/

namespace Sys2Proof.Machine

section
variable {s t : State} {i : Instr}

/-- What KEYEXPAND can leave: another `RK`, the same beyond `Nr`, another `RKV` and another `ERR`. -/
theorem exec_keyexpand_frame (h : exec .keyexpand s = .next t) :
    ∃ rk v e, t = { s with RK := rk, RKV := v, ERR := e } ∧ ∀ n : Fin 15, nrOf s.KLEN < n.val → rk[n] = s.RK[n] := by
  rw [exec_keyexpand] at h
  cases hs : klenLegal s.KLEN with
  | true =>
    rw [execKeyexpand_legal hs] at h
    exact ⟨_, _, _, (Host.Outcome.next.inj h).symm, fun n => storeSchedule_beyond s.RK _⟩
  | false =>
    rw [execKeyexpand_illegal hs] at h
    exact ⟨s.RK, s.RKV, _, (Host.Outcome.next.inj h).symm, fun _ _ => rfl⟩

/-- What CIPHER and DECIPHER can leave: the same, and another `S`. -/
theorem exec_driver_frame (hi : i ∈ [Instr.cipher, .decipher]) (h : exec i s = .next t) :
    ∃ m rk v e, t = { s with S := m, RK := rk, RKV := v, ERR := e } ∧
      ∀ n : Fin 15, nrOf s.KLEN < n.val → rk[n] = s.RK[n] := by
  obtain ⟨f, hf⟩ := exists_runDriver i hi
  rw [hf] at h
  cases hs : klenLegal s.KLEN with
  | true =>
    rw [runDriver_legal f hs] at h
    exact ⟨_, _, _, _, (Host.Outcome.next.inj h).symm, fun n => storeSchedule_beyond s.RK _⟩
  | false =>
    rw [runDriver_illegal f hs] at h
    exact ⟨s.S, s.RK, s.RKV, _, (Host.Outcome.next.inj h).symm, fun _ _ => rfl⟩

end

/-- The round keys and `RKV` are seen in `STATUS`, `RKCNT` and the window `RKB` (10_state.md R26). -/
theorem readLocation_withRK_withRKV (s : State) (rk : Vector Block 15) (v : Bool) {l : Location} (hl : l.isSchedule = false) :
    readLocation ((s.withRK rk).withRKV v) l = readLocation s l := by
  cases l with
  | status | rkcnt | rkb n i => cases hl
  | _ => rfl

/-- `ERR` is seen at its address and in `STATUS` (10_state.md R32, R33). -/
theorem readLocation_withERR (s : State) (e : Byte) {l : Location} (hl : l.isErr = false) :
    readLocation (s.withERR e) l = readLocation s l := by
  cases l with
  | err | status => cases hl
  | _ => rfl

/-- Settles O38: the registers each kind of command can reach, and where each of them is seen. -/
theorem scheduleCommandsFrame : Obligations.ScheduleCommandsFrame := by
  refine ⟨fun s t h => ?_, fun i s t hi h => ?_⟩
  · obtain ⟨rk, v, e, rfl, hbeyond⟩ := exec_keyexpand_frame h
    exact ⟨rfl, hbeyond, fun a herr hsched =>
      (readLocation_withERR _ e herr).trans (readLocation_withRK_withRKV s rk v hsched)⟩
  · obtain ⟨m, rk, v, e, rfl, hbeyond⟩ := exec_driver_frame hi h
    exact ⟨rfl, hbeyond, fun a hS herr hsched =>
      (readLocation_withS_withERR _ m e hS herr).trans (readLocation_withRK_withRKV s rk v hsched)⟩

end Sys2Proof.Machine
end

section
/-! PROOFS about 43_cipher_decipher.md R190 and 60_exceptions.md R216: the checkpoints of the trace hook. -/

namespace Sys2Proof.Machine

section
variable {s t : State} {l l' : List Instr} {i : Instr}

theorem blocksAfter_cons (l : List Instr) (h : exec i s = .next t) : blocksAfter (i :: l) s = t.S :: blocksAfter l t := by
  rw [blocksAfter, h]

theorem blocksAfter_append (l' : List Instr) (h : execList l s = .next t) :
    blocksAfter (l ++ l') s = blocksAfter l s ++ blocksAfter l' t := by
  induction l generalizing s with
  | nil => cases h; rfl
  | cons i is ih =>
    obtain ⟨b, rk, v, g, e, hi⟩ := exec_cases i s
    rw [execList_cons is hi] at h
    rw [List.cons_append, blocksAfter_cons _ hi, blocksAfter_cons _ hi, ih h, List.cons_append]

/-- On the expanded key of `s`, with `m` in `S`, the commands `l` leave the blocks `g m` in `S` one after another. -/
def ShowsOn (s : State) (l : List Instr) (g : Block → List Block) : Prop :=
  ∀ m, blocksAfter l (expandedWith s m) = g m

variable {f : Block → Block} {g g' : Block → List Block}

theorem ShowsOn.nil : ShowsOn s [] fun _ => [] := fun _ => rfl

theorem ShowsOn.append (hf : ActsOn s l f) (h : ShowsOn s l g) (h' : ShowsOn s l' g') :
    ShowsOn s (l ++ l') fun m => g m ++ g' (f m) := fun m => by
  rw [blocksAfter_append l' (hf m), h m, h' (f m)]

theorem ActsOn.showsOn (hf : ActsOn s [i] f) : ShowsOn s [i] fun m => [f m] := fun m => by
  obtain ⟨b, rk, v, x, e, hi⟩ := exec_cases i (expandedWith s m)
  have hm : execList [] _ = _ := (execList_cons [] hi).symm.trans (hf m)
  rw [blocksAfter_cons [] hi, Host.Outcome.next.inj hm]
  rfl

/-- One command more, in front. -/
theorem ShowsOn.cons (hf : ActsOn s [i] f) (h : ShowsOn s l g) : ShowsOn s (i :: l) fun m => f m :: g (f m) :=
  .append hf hf.showsOn h

theorem AppliesToS.actsOn (hi : AppliesToS i f) : ActsOn s [i] f := fun m => execList_cons [] (hi (expandedWith s m))

/-- The commands of a loop of rounds show what each round shows. -/
theorem ShowsOn.rounds {body : Nat → List Instr} {round : Block → Nat → Block} {snap : Block → Nat → List Block} {rs : List Nat}
    (hacts : ∀ r ∈ rs, ActsOn s (body r) (round · r)) (h : ∀ r ∈ rs, ShowsOn s (body r) (snap · r)) :
    ShowsOn s (rs.map body).flatten fun m => (roundsTrace round snap rs m).1 := by
  induction rs with
  | nil => exact .nil
  | cons r rs ih =>
    have hrest := ih (fun r' hr' => hacts r' (List.mem_cons_of_mem r hr')) fun r' hr' => h r' (List.mem_cons_of_mem r hr')
    exact .append (hacts r List.mem_cons_self) (h r List.mem_cons_self) hrest

/-- The blocks after KEYEXPAND and the commands that follow it. -/
theorem blocksAfter_keyexpand_cons (hs : klenLegal s.KLEN = true) (h : ShowsOn s l g) :
    blocksAfter (.keyexpand :: l) s = s.S :: g s.S := by
  have hexpand : exec .keyexpand s = .next (expandedWith s s.S) := (exec_keyexpand s).trans (execKeyexpand_legal hs)
  rw [blocksAfter_cons l hexpand, h]
  rfl

end

theorem cipherTrace_eq (w : List Word) (nr : Nat) (p : Block) :
    cipherTrace w nr p =
      let first := addRoundKey p (roundKeyOf w 0)
      let last := (middleRounds nr).foldl (cipherRound w) first
      p :: (([first] ++ (roundsTrace (cipherRound w) (cipherRoundTrace w) (middleRounds nr) first).1) ++
        [subBytes last, shiftRows (subBytes last), cipherWith w nr p]) := by
  rw [cipherTrace, roundsTrace_snd]
  rfl

theorem decipherTrace_eq (w : List Word) (nr : Nat) (q : Block) :
    decipherTrace w nr q =
      let a := addRoundKey q (roundKeyOf w nr)
      let first := invSubBytes (invShiftRows a)
      q :: (([a, invShiftRows a, first] ++
        (roundsTrace (decipherRound w) (decipherRoundTrace w) (middleRounds nr).reverse first).1) ++ [decipherWith w nr q]) := by
  rw [decipherTrace, roundsTrace_snd]
  rfl

section
variable {s : State} {w : List Word} {nr : Nat} (h : AddsRoundKeys s w nr)
include h

theorem AddsRoundKeys.showsOn_cipherRound {r : Nat} (hr : r ∈ middleRounds nr) :
    ShowsOn s [.subbytes, .shiftrows, .mixcolumns, .addroundkey r] (cipherRoundTrace w · r) :=
  .cons appliesToS_subbytes.actsOn <| .cons appliesToS_shiftrows.actsOn <| .cons appliesToS_mixcolumns.actsOn <|
    (h r (le_of_mem_middleRounds hr)).showsOn

theorem AddsRoundKeys.showsOn_decipherRound {r : Nat} (hr : r ∈ middleRounds nr) :
    ShowsOn s [.addroundkey r, .invmixcolumns, .invshiftrows, .invsubbytes] (decipherRoundTrace w · r) :=
  .cons (h r (le_of_mem_middleRounds hr)) <| .cons appliesToS_invmixcolumns.actsOn <|
    .cons appliesToS_invshiftrows.actsOn appliesToS_invsubbytes.actsOn.showsOn

theorem AddsRoundKeys.blocksAfter_encryptCommands (hs : klenLegal s.KLEN = true) :
    blocksAfter (encryptCommands nr) s = cipherTrace w nr s.S := by
  have hfirst := h 0 (Nat.zero_le nr)
  have hacts := ActsOn.rounds fun r hr => h.actsOn_cipherRound hr
  have hloop := ShowsOn.rounds (fun r hr => h.actsOn_cipherRound hr) fun r hr => h.showsOn_cipherRound hr
  have hfinal := ShowsOn.cons appliesToS_subbytes.actsOn (.cons appliesToS_shiftrows.actsOn (h nr le_rfl).showsOn)
  rw [cipherTrace_eq]
  exact blocksAfter_keyexpand_cons hs (.append (hfirst.append hacts) (.append hfirst hfirst.showsOn hloop) hfinal)

theorem AddsRoundKeys.blocksAfter_decryptCommands (hs : klenLegal s.KLEN = true) :
    blocksAfter (decryptCommands nr) s = decipherTrace w nr s.S := by
  have hfirst := (h nr le_rfl).append (.transform appliesToS_invshiftrows (.transform appliesToS_invsubbytes .nil))
  have hshow := ShowsOn.cons (h nr le_rfl) (.cons appliesToS_invshiftrows.actsOn appliesToS_invsubbytes.actsOn.showsOn)
  have hacts := ActsOn.rounds fun r hr => h.actsOn_decipherRound (List.mem_reverse.1 hr)
  have hloop := ShowsOn.rounds (fun r hr => h.actsOn_decipherRound (List.mem_reverse.1 hr))
    fun r hr => h.showsOn_decipherRound (List.mem_reverse.1 hr)
  rw [decipherTrace_eq]
  exact blocksAfter_keyexpand_cons hs
    (.append (hfirst.append hacts) (.append hfirst hshow hloop) (h 0 (Nat.zero_le nr)).showsOn)

end

/-- A trace of `Nr` rounds that starts at `p` and ends at `q`: one block for the input and one for each transform
(43_cipher_decipher.md R181, R190). -/
def TraceOf (nr : Nat) (p q : Block) (l : List Block) : Prop :=
  l.head? = some p ∧ l.getLast? = some q ∧ l.length = 4 * nr + 1

theorem length_middleRounds (nr : Nat) : (middleRounds nr).length = nr - 1 := List.length_range'

/-- The shape of both traces: the input, the transforms before the loop, four for each middle round, and those after the loop. -/
theorem traceOf_rounds {nr : Nat} {p q m : Block} {first last : List Block} {round : Block → Nat → Block}
    {snap : Block → Nat → List Block} {rs : List Nat} (hnr : 0 < nr) (hrs : rs.length = nr - 1)
    (hsnap : ∀ st r, (snap st r).length = 4) (hlast : last.getLast? = some q) (hlen : first.length + last.length = 4) :
    TraceOf nr p q (p :: ((first ++ (roundsTrace round snap rs m).1) ++ last)) := by
  refine ⟨rfl, ?_, ?_⟩
  · rw [← List.cons_append, List.getLast?_append, hlast, Option.some_or]
  · rw [List.length_cons, List.length_append, List.length_append, length_roundsTrace hsnap, hrs]
    omega

theorem traceOf_cipherTrace (w : List Word) {nr : Nat} (hnr : 0 < nr) (p : Block) :
    TraceOf nr p (cipherWith w nr p) (cipherTrace w nr p) := by
  rw [cipherTrace_eq]
  exact traceOf_rounds hnr (length_middleRounds nr) (fun _ _ => rfl) rfl rfl

theorem traceOf_decipherTrace (w : List Word) {nr : Nat} (hnr : 0 < nr) (q : Block) :
    TraceOf nr q (decipherWith w nr q) (decipherTrace w nr q) := by
  rw [decipherTrace_eq]
  exact traceOf_rounds hnr (List.length_reverse.trans (length_middleRounds nr)) (fun _ _ => rfl) rfl rfl

section
variable {s : State} (hs : klenLegal s.KLEN = true)
include hs

theorem checkpoints_cipher_legal :
    checkpoints .cipher s = cipherTrace (keyExpansion s.KEY (nkOf s.KLEN)) (nrOf s.KLEN) s.S := if_pos hs

theorem checkpoints_decipher_legal :
    checkpoints .decipher s = decipherTrace (keyExpansion s.KEY (nkOf s.KLEN)) (nrOf s.KLEN) s.S := if_pos hs

/-- The checkpoints of a driver lead from the block before it to the block after it. -/
theorem traceOf_checkpoints {i : Instr} (hi : i ∈ [Instr.cipher, .decipher]) :
    ∃ t, exec i s = .next t ∧ TraceOf (nrOf s.KLEN) s.S t.S (checkpoints i s) := by
  have hnr : 0 < nrOf s.KLEN := Nat.succ_pos _
  obtain rfl | rfl : i = .cipher ∨ i = .decipher := by simpa using hi
  · obtain ⟨rk, ht, -, -⟩ := drives_cipher.exec_legal hs
    rw [checkpoints_cipher_legal hs]
    exact ⟨_, ht, traceOf_cipherTrace _ hnr s.S⟩
  · obtain ⟨rk, ht, -, -⟩ := drives_decipher.exec_legal hs
    rw [checkpoints_decipher_legal hs]
    exact ⟨_, ht, traceOf_decipherTrace _ hnr s.S⟩

end

theorem checkpoints_illegal {s : State} (hs : klenLegal s.KLEN = false) :
    checkpoints .cipher s = [] ∧ checkpoints .decipher s = [] := by
  have hk : ¬ klenLegal s.KLEN = true := by simp [hs]
  exact ⟨if_neg hk, if_neg hk⟩

/-- The round keys shown after the command `i` in the state `s` are those in `RK` then, and its checkpoint, if it has one, is `S` then. -/
def TracedAfter (i : Instr) (s : State) : Prop :=
  checkpoints i s = stepTrace (exec i s) ∧ traceKeys i s = storedKey (exec i s)

theorem tracedAfter_transform {i : Instr} (hi : TransformCommand i) (s : State) : TracedAfter i s := by
  obtain hmem | ⟨n, rfl⟩ := hi
  · fin_cases hmem <;> exact ⟨rfl, rfl⟩
  · exact ⟨rfl, rfl⟩

/-- Whether KEYEXPAND is traced is free (60_exceptions.md R216, R218). -/
theorem tracedAfter_keyexpand (s : State) : TracedAfter .keyexpand s ∨ checkpoints .keyexpand s = [] := by
  cases h : Config.traceKeyexpand with
  | true => exact .inl ⟨if_pos h, rfl⟩
  | false => exact .inr (if_neg (by simp [h]))

theorem TracedAfter.exists_checkpoint {i : Instr} {s : State} (h : TracedAfter i s) :
    ∃ t, exec i s = .next t ∧ checkpoints i s = [t.S] ∧ traceKeys i s = storedKey (.next t) := by
  obtain ⟨hpoints, hkeys⟩ := h
  obtain ⟨b, rk, v, g, e, ht⟩ := exec_cases i s
  rw [ht] at hpoints hkeys
  exact ⟨_, ht, hpoints, hkeys⟩

/-- Settles O39: the drivers by their traces, which are those of the step sequences; the other commands by `S` after them. -/
theorem traceCheckpoints : Obligations.TraceCheckpoints := by
  refine ⟨fun s i hs hi => traceOf_checkpoints hs hi, fun s hs => ?_, fun s => checkpoints_illegal, fun s i hi => ?_,
    fun s => ?_, fun s => ⟨rfl, fun _ => rfl⟩⟩
  · have hkeys := addsRoundKeys_keyExpansion hs
    rw [checkpoints_cipher_legal hs, checkpoints_decipher_legal hs]
    exact ⟨(hkeys.blocksAfter_encryptCommands hs).symm, (hkeys.blocksAfter_decryptCommands hs).symm⟩
  · obtain ⟨t, ht, hpoints, -⟩ := (tracedAfter_transform hi s).exists_checkpoint
    exact ⟨t, ht, hpoints⟩
  · obtain h | hnone := tracedAfter_keyexpand s
    · obtain ⟨t, ht, hpoints, -⟩ := h.exists_checkpoint
      exact ⟨t, ht, .inl hpoints⟩
    · obtain ⟨b, rk, v, g, e, ht⟩ := exec_cases .keyexpand s
      exact ⟨_, ht, .inr hnone⟩

end Sys2Proof.Machine
end

section
/-! PROOFS about 60_exceptions.md R216: what the trace port presents. -/

namespace Sys2Proof.Machine

/-- The round keys that the trace port shows at checkpoint `k` of a command. -/
def shownKeys (i : Instr) (s : State) (k : Nat) : List Block :=
  (Config.traceRoundKeys (encode i) s.KLEN k).filterMap (traceKeys i s)

theorem exists_of_mem_shownKeys {i : Instr} {s : State} {k : Nat} {x : Block} (h : x ∈ shownKeys i s k) :
    ∃ n, traceKeys i s n = some x := by
  obtain ⟨n, -, hn⟩ := List.mem_filterMap.1 h
  exact ⟨n, hn⟩

theorem snapshotsAt_eq (i : Instr) (s : State) (k : Nat) (b : Block) :
    snapshotsAt i s k b = (shownBlocks (tracedInside i) (shownKeys i s k) b).mapIdx fun place x =>
      ⟨Config.traceLabel (encode i) s.KLEN k place, x⟩ := rfl

/-- The snapshots of round keys beside `S` at checkpoint `k` inside a driver. -/
def keySnapshots (i : Instr) (s : State) (k : Nat) : List Snapshot :=
  (shownKeys i s k).mapIdx fun place x => ⟨Config.traceLabel (encode i) s.KLEN k (place + 1), x⟩

theorem snapshotsAt_inside {i : Instr} (hi : tracedInside i = true) (s : State) (k : Nat) (b : Block) :
    snapshotsAt i s k b = ⟨Config.traceLabel (encode i) s.KLEN k 0, b⟩ :: keySnapshots i s k := by
  rw [snapshotsAt_eq, hi, shownBlocks_inside, List.mapIdx_cons, keySnapshots]

theorem data_mem_shownKeys {i : Instr} {s : State} {k : Nat} {p : Snapshot} (h : p ∈ keySnapshots i s k) :
    p.data ∈ shownKeys i s k := by
  obtain ⟨n, hn, rfl⟩ := List.mem_mapIdx.1 h
  exact List.getElem_mem hn

/-- After a step command one block is shown: `S`, or one of the round keys. -/
theorem snapshotsAt_after {i : Instr} (hi : tracedInside i = false) (s : State) (k : Nat) (b : Block) :
    ∃ x, snapshotsAt i s k b = [⟨Config.traceLabel (encode i) s.KLEN k 0, x⟩] ∧ (x = b ∨ x ∈ shownKeys i s k) := by
  obtain ⟨x, hx, hor⟩ := shownBlocks_after (shownKeys i s k) b
  exact ⟨x, by rw [snapshotsAt_eq, hi, hx]; rfl, hor⟩

theorem tracePort_true (i : Instr) (s : State) :
    tracePort true i s = ((checkpoints i s).mapIdx (snapshotsAt i s)).flatten := rfl

theorem tracedInside_driver : ∀ i ∈ [Instr.cipher, .decipher], tracedInside i = true ∧ ∀ s, traceKeys i s = scheduleKey s := by
  simp only [List.forall_mem_cons]
  exact ⟨⟨rfl, fun _ => rfl⟩, ⟨rfl, fun _ => rfl⟩, nofun⟩

/-- A command other than CIPHER and DECIPHER is traced after it, or not at all. -/
theorem tracedAfter_or_untraced {i : Instr} (hi : i ∉ [Instr.cipher, .decipher]) (s : State) :
    tracedInside i = false ∧ (TracedAfter i s ∨ checkpoints i s = []) := by
  cases i with
  | cipher | decipher => exact absurd (by simp) hi
  | keyexpand => exact ⟨rfl, tracedAfter_keyexpand s⟩
  | subbytes | invsubbytes | shiftrows | invshiftrows | mixcolumns | invmixcolumns =>
    exact ⟨rfl, .inl (tracedAfter_transform (.inl (by simp)) s)⟩
  | addroundkey n => exact ⟨rfl, .inl (tracedAfter_transform (.inr ⟨n, rfl⟩) s)⟩
  | xtime | gmul => exact ⟨rfl, .inr rfl⟩

/-- The one snapshot after a traced step command. -/
theorem TracedAfter.exists_snapshot {i : Instr} {s : State} (hi : tracedInside i = false) (h : TracedAfter i s) :
    ∃ t p, exec i s = .next t ∧ checkpoints i s = [t.S] ∧ tracePort true i s = [p] ∧
      p.label = Config.traceLabel (encode i) s.KLEN 0 0 ∧
      (p.data = t.S ∨ (t.RKV = true ∧ ∃ n : Fin 15, n.val ≤ nrOf t.KLEN ∧ p.data = t.RK[n])) := by
  obtain ⟨t, ht, hpoints, hkeys⟩ := h.exists_checkpoint
  obtain ⟨x, hx, hdata⟩ := snapshotsAt_after hi s 0 t.S
  have hport : tracePort true i s = [⟨Config.traceLabel (encode i) s.KLEN 0 0, x⟩] := by
    rw [tracePort_true, hpoints, ← hx]
    exact List.append_nil _
  refine ⟨t, _, ht, hpoints, hport, rfl, hdata.imp_right fun hmem => ?_⟩
  obtain ⟨n, hn⟩ := exists_of_mem_shownKeys hmem
  rw [hkeys] at hn
  obtain ⟨u, hu, hv, hkey⟩ := storedKey_eq_some hn
  cases hu
  exact ⟨hv, hkey⟩

/-- Settles O40: inside a driver every checkpoint shows `S` and then round keys of its schedule; after a step command one block is
shown; the labels and the choice of the round keys stay free. -/
theorem tracePortPresents : Obligations.TracePortPresents := by
  refine ⟨fun _ _ => rfl, fun i s hi => ⟨keySnapshots i s, ?_, fun k p hp => ?_⟩, fun i s hi => ?_⟩
  · obtain ⟨hinside, -⟩ := tracedInside_driver i hi
    rw [tracePort_true, funext₂ (snapshotsAt_inside hinside s)]
  · obtain ⟨-, hkeys⟩ := tracedInside_driver i hi
    obtain ⟨n, hn⟩ := exists_of_mem_shownKeys (data_mem_shownKeys hp)
    rw [hkeys] at hn
    exact scheduleKey_eq_some hn
  · obtain ⟨hafter, htraced | hnone⟩ := tracedAfter_or_untraced hi s
    · exact .inr (htraced.exists_snapshot hafter)
    · exact .inl ⟨hnone, by rw [tracePort_true, hnone]; rfl⟩

end Sys2Proof.Machine
end

section
/-! PROOFS about 30_encoding.md R90: command bytes written as their two fields. -/

namespace Sys2Proof.Machine

/-- Settles O5: the bytes of the encoder, written as `OP` and `ARG`, and one of the illegal bytes. -/
theorem writtenBytesDecode : Obligations.WrittenBytesDecode :=
  ⟨decode_encode (i := .cipher) rfl, decode_encode (i := .decipher) rfl, decode_encode (i := .keyexpand) rfl,
    decode_encode (i := .invshiftrows) rfl, decode_encode (i := .addroundkey 10) rfl, decode_encode (i := .xtime) rfl,
    decode_encode (i := .gmul 0xe) rfl, (decode_eq_illegal_iff _).2 (.inl (by decide))⟩

end Sys2Proof.Machine
end

section
/-! PROOFS about 10_state.md R31 and 20_memory.md R80: the step that serves a write to `CMD`. -/

namespace Sys2Proof.Machine

theorem step_write_cmd {s : State} {v : Byte} {i : Instr} {rest : List HostEvent} (hr : s.resetDone = true)
    (h : s.host = .write 0x061#9 v :: rest) (hv : decode v = .command i) : step s = exec i (s.withHost rest) :=
  (step_write hr h).trans (hostWrite_cmd_of_decode hv _)

/-- `withFetchWord` makes the write of the byte to `CMD` the host's next event, in a core that has been reset. -/
theorem withFetchWord_eq (s : State) (v : Byte) :
    s.withFetchWord 8 v.toNat = { s with host := .write 0x061#9 v :: s.host, resetDone := true } := by
  rw [State.withFetchWord, BitVec.ofNat_toNat, BitVec.setWidth_eq, queueCommand_eq, cmdAddr]

/-- Settles O50: a write to `CMD` runs the command of its byte, and `withFetchWord` queues such a write. -/
theorem stepRunsDecodedCommand : Obligations.StepRunsDecodedCommand := by
  refine ⟨fun s v i rest => step_write_cmd, fun s v i hv => ?_⟩
  rw [withFetchWord_eq, step_write_cmd rfl rfl hv]
  rfl

end Sys2Proof.Machine
end

section
/-! PROOFS about 60_exceptions.md R200 and 70_reset_and_hazards.md R241: no run from reset stops. -/

namespace Sys2Proof.Machine

/-- Once a reset has been taken every event is served (60_exceptions.md R200). -/
theorem exists_step_eq_next {s : State} (hr : s.resetDone = true) : ∃ t, step s = .next t := by
  cases hh : s.host with
  | nil => exact ⟨s, step_nil hh⟩
  | cons e rest =>
    cases e with
    | reset => exact ⟨_, step_cons hh⟩
    | read a => exact ⟨_, step_read hr hh⟩
    | write a v => rw [step_write hr hh]; exact exists_hostWrite_eq_next a v _

/-- A state that meets the invariant has a next one, which meets it too and has the host's next event served. -/
theorem Inv.exists_step {s : State} (h : Inv s) : ∃ t, step s = .next t ∧ Inv t ∧ t.host = s.host.tail := by
  obtain ⟨-, -, hr⟩ := id h
  obtain ⟨t, ht⟩ := exists_step_eq_next hr
  obtain ⟨-, -, -, hserved⟩ := stepServesHostInOrder
  obtain ⟨hhost, -⟩ := hserved s t ht
  exact ⟨t, ht, stepKeepsInvariant s t h ht, hhost⟩

/-- A run of any length from a state that meets the invariant. -/
theorem Inv.exists_run (k : Nat) {s : State} (h : Inv s) :
    ∃ t : State, (Host.Core.run Sys2Proof.core k s : Result) = .next t ∧ Inv t ∧ t.host = s.host.drop k := by
  induction k generalizing s with
  | zero => exact ⟨s, rfl, h, rfl⟩
  | succ k ih =>
    obtain ⟨u, hu, hinv, hhost⟩ := h.exists_step
    obtain ⟨t, ht, htinv, hthost⟩ := ih hinv
    exact ⟨t, (run_succ k hu).trans ht, htinv, by rw [hthost, hhost, List.drop_tail]⟩

/-- Settles O60: the reset state meets the invariant, and every step of the run keeps it. -/
theorem runsNeverStop : Obligations.RunsNeverStop := fun script k => (invariantAtReset script).exists_run k

end Sys2Proof.Machine
end
